-- ==== Sys2Proof/Word.lean ====
section
/-! DEFINITION. The word types of the MS-216 and the fixed-length table type that holds its
slots, rings, entries and places. -/

namespace Sys2Proof

/-- One byte of an entry, a record or a buffer. -/
abbrev Byte := BitVec 8

/-- A 32-bit register, bus address or calibration word. -/
abbrev Word := BitVec 32

/-- A 64-byte submission entry or template image (R203), read as one little-endian number:
byte `i` stands in bits `8 * i` to `8 * i + 7`. -/
abbrev Entry := BitVec 512

/-- A fixed number of like things, numbered from 0. -/
abbrev Table (α : Type) (n : Nat) := Vector α n

/-- The thing numbered `i`. -/
def Table.look {α : Type} {n : Nat} (t : Table α n) (i : Fin n) : α := t[i.val]'i.isLt

/-- The table with the thing numbered `i` replaced. -/
def Table.put {α : Type} {n : Nat} (t : Table α n) (i : Fin n) (x : α) : Table α n :=
  t.set i.val x i.isLt

/-- The table whose thing numbered `i` is `f i`. -/
def Table.build {α : Type} {n : Nat} (f : Fin n → α) : Table α n := Vector.ofFn f

end Sys2Proof
end

