-- ==== Sys2Proof/Syntax.lean ====
section
/-! DEFINITION. The commands of the MS-216: one constructor for each row of spec/opcode_table.json.
A row is an operation or event of the part; what the outside world decides at that event (a register
value, a fetched entry, a comparator reading) is an operand (notes/assumptions/4). -/

namespace Sys2Proof

/-- The two converters (R76). -/
inductive Conv where
  | ca
  | cb
  deriving DecidableEq, Repr

/-- The eight registers of the window (R194). -/
inductive Reg where
  | ident
  | control
  | status
  | adminSq
  | adminCq
  | submit
  | release
  | intPending
  deriving DecidableEq, Repr

/-- What the comparator reads of the integrator at the end of a run-up: the side of zero it stands on
(R79), and whether it stands already at zero (R80). -/
structure Integrator where
  positive : Bool
  zero : Bool
  deriving DecidableEq, Repr

/-- The commands. Administrative commands carry COMMAND_ID and the fields of R203 as fetched. -/
inductive Instr where
  /-- The power-on reset circuit, or the release of RST_N (R202). -/
  | powerOnReset
  /-- A write of 1 to CONTROL.RESET (R201). -/
  | softReset
  /-- A CONTROL write with ENABLE 1 and RESET 0 (R195, R196). -/
  | enableOn (intEnable : Bool)
  /-- A CONTROL write with ENABLE 0 and RESET 0 (R195, R198). -/
  | enableOff (intEnable : Bool)
  /-- A CONTROL write with ENABLE 0 and RESET 0, as it leaves FAULT (R200). -/
  | leaveFault (intEnable : Bool)
  /-- Any CONTROL write, by its whole value (R195). -/
  | intEnableWrite (value : Word)
  /-- A write to SUBMIT (R164). -/
  | submit (queue : BitVec 4) (tail : Byte)
  /-- A write to RELEASE (R165). -/
  | release (queue : BitVec 4) (head : Byte)
  /-- A write to INT_PENDING: the bits written 1 (R177). -/
  | intPendingClear (bits : Byte)
  /-- A write to the register at a byte offset, 0x00 to 0x1F, of the window (R194). -/
  | registerWrite (offset : BitVec 5) (value : Word)
  /-- The slot arbiter fills a slot (R28). -/
  | slotFill
  /-- The read of a FETCHING slot completes with the entry read (R30). -/
  | sqFetchDone (slot : Fin 16) (entry : Entry)
  /-- The read of a FETCHING slot ends in a bus error (R31, R167). -/
  | sqFetchBusError (slot : Fin 16)
  /-- A FENCED MARK leaves for POSTING (R36). -/
  | fenceRelease (slot : Fin 16)
  /-- The claim arbiter takes a due examination (R51). -/
  | examination
  /-- The settling phase of a converter ends (R74). -/
  | settlingEnd (c : Conv)
  /-- The autozero ends; the offset measured (R78). -/
  | autozeroEnd (c : Conv) (offset : Int)
  /-- The run-up reaches N counts (R79), with what the comparator reads of the integrator then. -/
  | runUpEnd (c : Conv) (reading : Integrator)
  /-- The comparator detects the zero crossing after `counts` counts, at least one (R80). -/
  | runDownEnd (c : Conv) (counts : Nat)
  /-- The run-down reaches 1.25 N counts without a crossing (R81). -/
  | runDownOverrange (c : Conv)
  /-- The 500 µs RANGING phase ends (R87). -/
  | rangingEnd (c : Conv)
  /-- The 1 ms recovery ends (R92). -/
  | recoveryEnd (c : Conv)
  /-- Correction of a slot ends (R35, R115). -/
  | correctionEnd (slot : Fin 16)
  /-- The QE begins the write of the oldest member's record (R169). -/
  | writeBegin (cq : Fin 8)
  /-- The write of a record completes without a bus error (R170). -/
  | recordWriteDone (cq : Fin 8)
  /-- The write of a record ends in a bus error (R171, R172). -/
  | cqWriteBusError (cq : Fin 8)
  /-- The AX starts the read of the entry at SQ0's HEAD (R181). -/
  | adminFetchStart
  /-- The AX read completes with the entry read; `guard` is the supply guard at that event. -/
  | adminFetchDone (entry : Entry) (guard : Bool)
  /-- The AX read ends in a bus error (R172). -/
  | adminFetchBusError
  /-- The AX takes IDENTIFY (R186). -/
  | identify (commandId : BitVec 16) (addr : Word)
  /-- The AX takes CREATE_CQ (R187). -/
  | createCq (commandId : BitVec 16) (cqId : Byte) (base : Word) (size : BitVec 16)
      (intEnable : Bool) (threshold : Byte) (timer : Byte)
  /-- The AX takes DELETE_CQ (R188). -/
  | deleteCq (commandId : BitVec 16) (cqId : Byte)
  /-- The AX takes CREATE_SQ (R189). -/
  | createSq (commandId : BitVec 16) (sqId : Byte) (base : Word) (size : BitVec 16)
      (boundCq : Byte) (cls : Byte) (limit : Byte)
  /-- The AX takes DELETE_SQ (R190). -/
  | deleteSq (commandId : BitVec 16) (sqId : Byte)
  /-- The AX takes ABORT (R191). -/
  | abort (commandId : BitVec 16) (sqId : Byte) (select : Byte) (tag : BitVec 16)
  /-- The AX takes CAL_READ (R122). -/
  | calRead (commandId : BitVec 16) (entry : Byte) (addr : Word)
  /-- The AX takes CAL_WRITE; `guard` is the supply guard sampled at check 4 (R125). -/
  | calWrite (commandId : BitVec 16) (entry : Byte) (budget : Byte) (expected : BitVec 16)
      (wordA : Word) (wordB : Word) (guard : Bool)
  /-- The AX takes SCAN_LOAD (R139). -/
  | scanLoad (commandId : BitVec 16) (scan : Byte) (count : Byte) (addr : Word)
  /-- The AX takes SCAN_START (R141). -/
  | scanStart (commandId : BitVec 16) (scan : Byte) (period : BitVec 16) (passes : BitVec 16)
      (target : Byte) (cls : Byte) (limit : Byte)
  /-- The AX takes SCAN_STOP (R148). -/
  | scanStop (commandId : BitVec 16) (scan : Byte)
  /-- The AX takes SCAN_STATUS (R149). -/
  | scanStatus (commandId : BitVec 16) (scan : Byte)
  /-- The AX takes a command whose OPCODE names no admin command (R183). -/
  | invalidOpcode (commandId : BitVec 16) (opcode : Byte)
  /-- The DMA write of IDENTIFY ends; `ok` is clear on a bus error (R186). -/
  | identifyDmaDone (ok : Bool)
  /-- The DMA write of CAL_READ ends; `ok` is clear on a bus error (R122, R123). -/
  | calReadDmaDone (ok : Bool)
  /-- The DMA read of SCAN_LOAD ends: the images read, or `none` on a bus error (R140). -/
  | scanLoadDmaDone (images : Option (List Entry))
  /-- The last occupied slot of the DELETING SQ has returned to FREE (R190). -/
  | deleteSqEnd
  /-- A scan pass completes (R145). -/
  | passCompletion (scan : Fin 8)
  /-- A 1 ms tick of the timebase (R142). -/
  | timebaseTick
  /-- A scan's countdown has reached 0 (R145). -/
  | countdownExpiry (scan : Fin 8)
  /-- A CQ's coalescing timer expires (R176). -/
  | coalescingTimerExpiry (cq : Fin 8)
  /-- The start-up load of the shadow entries completes (R120). -/
  | shadowLoadDone
  /-- A converter begins its start-up REF check (R99). -/
  | startUpRefCheckStart (c : Conv)
  /-- The second start-up REF check has ended (R197). -/
  | startUpEnd
  /-- The discard step of halting (R199). -/
  | discardStep
  /-- The charge phase of a CAL_WRITE ends; the supply guard sampled there (R128). -/
  | chargeEnd (guard : Bool)
  /-- A program pulse ends; the image cells it has brought to their new values (R128): bits 31-0
  word A, 63-32 word B, 79-64 the CRC. -/
  | pulseEnd (moved : BitVec 80)
  /-- A verify ends; the supply guard, sampled only if the image does not match (R128). -/
  | verifyEnd (guard : Bool)
  /-- RST_N goes low, or the supplies are lost (R202). -/
  | rstNHeldLow
  deriving DecidableEq, Repr

end Sys2Proof
end

