-- ==== Sys2Proof/Config.lean ====
section
/-! DEFINITION. The free values of the model: what the manual leaves open while the part goes on.
They have no body, so nothing can be proved of a particular value. -/

namespace Sys2Proof.Config

/-- DESIGN CHOICE (notes/assumptions/7): the counts that had elapsed when a RUN_UP or a RUN_DOWN
was cut off (R89: "COUNTER stops"). The manual gives no time to the events that cut a phase, so the
count is open; the argument is the model's own counter of free values. -/
opaque cutCount : Nat → Nat

/-- DESIGN CHOICE (notes/assumptions/8): which of the 80 image cells had moved to the new image when
a program pulse was cut off (R134: "Partly programmed"). Bits 31-0 stand for word A, 63-32 for
word B, 79-64 for the CRC. The argument is the model's own counter of free values. -/
opaque cutPulse : Nat → BitVec 80

end Sys2Proof.Config
end

