-- ==== Sys2Proof/Machine/State.lean ====
section
/-! DEFINITION. The state of the MS-216 as plain data, block by block, and the state after reset.
Every field is named after the rule of spec/ that gives it; values the manual does not give at reset
are marked with their entry of the assumption log. -/

namespace Sys2Proof.Machine

/-! ### Names of the measurement (R1, R5, R6, R8) -/

/-- The six measurement modes (R1). -/
inductive Mode where
  | voltSe
  | voltDiff
  | res2w
  | res4w
  | supply
  | ref
  deriving DecidableEq, Repr

/-- The four input ranges, widest first (R6). -/
inductive Range where
  | g0
  | g1
  | g2
  | g3
  deriving DecidableEq, Repr

/-- The four apertures (R8). -/
inductive Aperture where
  | ap0
  | ap1
  | ap2
  | ap3
  deriving DecidableEq, Repr

/-- The three excitation levels (R5). -/
inductive Level where
  | i0
  | i1
  | i2
  deriving DecidableEq, Repr

/-- The two excitation sources (R5). -/
inductive SourceId where
  | ex0
  | ex1
  deriving DecidableEq, Repr

/-- One thing for each converter. -/
structure ByConv (α : Type) where
  ca : α
  cb : α
  deriving DecidableEq, Repr

/-- One thing for each excitation source. -/
structure BySource (α : Type) where
  ex0 : α
  ex1 : α
  deriving DecidableEq, Repr

/-- The thing of converter `c`. -/
def ByConv.look {α : Type} (p : ByConv α) : Conv → α
  | .ca => p.ca
  | .cb => p.cb

/-- The pair with the thing of converter `c` replaced. -/
def ByConv.put {α : Type} (p : ByConv α) : Conv → α → ByConv α
  | .ca, x => { p with ca := x }
  | .cb, x => { p with cb := x }

/-- The thing of source `x`. -/
def BySource.look {α : Type} (p : BySource α) : SourceId → α
  | .ex0 => p.ex0
  | .ex1 => p.ex1

/-- The pair with the thing of source `x` replaced. -/
def BySource.put {α : Type} (p : BySource α) : SourceId → α → BySource α
  | .ex0, x => { p with ex0 := x }
  | .ex1, x => { p with ex1 := x }

/-! ### Requests and slots (R14, R21, R22) -/

/-- The request fields of R14 as copied from an entry or a template image (R203), TAG apart. -/
structure Request where
  opcode : Byte
  mode : Byte
  range : Byte
  aperture : Byte
  samples : Byte
  termA : Byte
  termB : Byte
  termC : Byte
  termD : Byte
  source : Byte
  level : Byte
  converter : Byte
  extraSettle : BitVec 16
  noAutozero : Bool
  raw : Bool
  deriving DecidableEq, Repr

/-- The states of an occupied slot (R22); a FREE slot holds no record. -/
inductive SlotState where
  | fetching
  | waiting
  | settling
  | converting
  | correcting
  | fenced
  | posting
  deriving DecidableEq, Repr

/-- The TAG and the admission sequence number that a fetch completion gives a slot (R25, R30). -/
structure Admission where
  tag : BitVec 16
  seq : BitVec 32
  deriving DecidableEq, Repr

/-- The ORIGIN of a slot (R21). -/
inductive Origin where
  | sq (q : Fin 8) (fetchIndex : Nat) (admission : Option Admission)
  | scan (id : Fin 8) (index : Nat) (pass : Nat)
  deriving DecidableEq, Repr

/-- How a terminal is claimed (R46). -/
inductive ClaimKind where
  | sense
  | drive
  deriving DecidableEq, Repr

/-- The converter choice of a need set (R48). -/
inductive ConvChoice where
  | either
  | only (c : Conv)
  deriving DecidableEq, Repr

/-- The source choice of a need set (R48). -/
inductive SourceChoice where
  | noSource
  | either
  | only (x : SourceId)
  deriving DecidableEq, Repr

/-- A need set (R48). -/
structure NeedSet where
  conv : ConvChoice
  terms : List (Fin 16 × ClaimKind)
  source : SourceChoice
  deriving DecidableEq, Repr

/-- The GRANT of a slot (R21). -/
structure Grant where
  conv : Conv
  source : Option SourceId
  deriving DecidableEq, Repr

/-- The abort detail codes (R39). -/
inductive AbortDetail where
  | abortCmd
  | queueDeleted
  | halt
  deriving DecidableEq, Repr

/-- The sign of an overranged sample (R21, OVERRANGE SEEN). -/
inductive Sign where
  | pos
  | neg
  deriving DecidableEq, Repr

/-- The status codes of measurement records (R18). -/
inductive ReqStatus where
  | success
  | overrange
  | aborted
  | invalidRequest
  | calInvalid
  | refOutOfTolerance
  deriving DecidableEq, Repr

/-- The limit states of a template (R137). -/
inductive LimitState where
  | unknown
  | inside
  | below
  | above
  deriving DecidableEq, Repr

/-- The flags of a measurement record (R20). -/
structure RecFlags where
  raw : Bool
  autoranged : Bool
  degraded : Bool
  overrangePos : Bool
  overrangeNeg : Bool
  limitChange : Bool
  deriving DecidableEq, Repr

/-- The RESULT of a slot (R21); the detail code stands in `aux` (R18), a `generation` of 0 is
"absent" (R19). -/
structure Result where
  value : Int
  status : ReqStatus
  aux : Nat
  generation : Nat
  flags : RecFlags
  limitNew : LimitState
  limitPrev : LimitState
  deriving DecidableEq, Repr

/-- A slot record (R21). -/
structure SlotRec where
  state : SlotState
  origin : Origin
  targetCq : Fin 8
  cls : Fin 4
  request : Option Request
  needSet : Option NeedSet
  bypass : Nat
  blocking : Bool
  grant : Option Grant
  currentRange : Range
  steps : Nat
  samplesDone : Nat
  sum : Int
  overrangeSeen : Option Sign
  result : Option Result
  pendingAbort : Option AbortDetail
  hold : Bool
  orphaned : Bool
  deriving DecidableEq, Repr

/-! ### Claim table, switch matrix, sources, converters (R45, R64, R71, R76) -/

/-- The claim record of a terminal (R45). -/
inductive TermClaim where
  | free
  | drive (slot : Fin 16)
  | sense (holders : List (Fin 16 × Conv))
  deriving DecidableEq, Repr

/-- The claim record of a converter (R45). -/
inductive ConvClaim where
  | free
  | slot (i : Fin 16)
  | recovery
  deriving DecidableEq, Repr

/-- What a converter input is joined to (R64, R66). -/
inductive Point where
  | agnd
  | terminal (t : Fin 16)
  | supplyDivider
  | refChannel
  deriving DecidableEq, Repr

/-- A connection set (R64). -/
structure ConnSet where
  plus : Point
  minus : Point
  driveHigh : Option (Fin 16)
  driveLow : Option (Fin 16)
  deriving DecidableEq, Repr

/-- The set at REST (R64). -/
def ConnSet.rest : ConnSet := { plus := .agnd, minus := .agnd, driveHigh := none, driveLow := none }

/-- The state of an excitation source (R71). -/
inductive SourceState where
  | off
  | on (level : Level) (holder : Fin 16)
  deriving DecidableEq, Repr

/-- The states of a converter (R76). -/
inductive ConvState where
  | idle
  | settling
  | autozero
  | runUp
  | runDown
  | ranging
  | recovery
  deriving DecidableEq, Repr

/-- What a converter serves (R76). -/
inductive Serving where
  | nothing
  | slot (i : Fin 16)
  | startUp
  deriving DecidableEq, Repr

/-- A converter record (R76), with the held offset of R78. PHASE TIMER in µs, `none` when stopped. -/
structure ConvRec where
  state : ConvState
  currentRange : Range
  degraded : Bool
  phaseTimer : Option Nat
  counter : Nat
  polarity : Sign
  serving : Serving
  heldOffset : Int
  deriving DecidableEq, Repr

/-- A converter after power-on or soft reset (R76, R78). -/
def ConvRec.reset : ConvRec :=
  { state := .idle, currentRange := .g0, degraded := false, phaseTimer := none, counter := 0,
    polarity := .pos, serving := .nothing, heldOffset := 0 }

/-! ### Calibration store (R117, R119, R124) -/

/-- The entry image of the cells (R117). -/
structure CalImage where
  wordA : Word
  wordB : Word
  crc : BitVec 16
  deriving DecidableEq, Repr

/-- The nonvolatile cells of one entry (R117). -/
structure Cell where
  image : CalImage
  counter : Nat
  deriving DecidableEq, Repr

/-- A shadow entry (R119). -/
structure Shadow where
  wordA : Word
  wordB : Word
  generation : Nat
  valid : Bool
  deriving DecidableEq, Repr

/-- A shadow entry after reset (R119). -/
def Shadow.reset : Shadow := { wordA := 0, wordB := 0, generation := 0, valid := false }

/-- The phases of a CAL_WRITE (R124). -/
inductive WritePhase where
  | charge
  | pulse
  | verify
  deriving DecidableEq, Repr

/-- The write context (R124). -/
structure WriteCtx where
  entry : Fin 16
  image : CalImage
  budget : Nat
  pulses : Nat
  phase : WritePhase
  deriving DecidableEq, Repr

/-! ### Scan scheduler (R137, R138) -/

/-- The limit block of a template (R137). -/
structure LimitBlock where
  low : Int
  high : Int
  hysteresis : Nat
  changesOnly : Bool
  deriving DecidableEq, Repr

/-- A template in its place (R137). -/
structure Template where
  request : Request
  limits : Option LimitBlock
  limitState : LimitState
  deriving DecidableEq, Repr

/-- The states of a scan (R138). -/
inductive ScanState where
  | empty
  | loaded
  | running
  | stopping
  deriving DecidableEq, Repr

/-- A scan program record (R138). -/
structure Scan where
  state : ScanState
  first : Nat
  count : Nat
  period : Nat
  passLimit : Nat
  remaining : Nat
  target : Option (Fin 8)
  cls : Fin 4
  limit : Nat
  countdown : Nat
  counting : Bool
  passNumber : Nat
  nextTemplate : Nat
  outstanding : Nat
  overruns : Nat
  deriving DecidableEq, Repr

/-- A scan program record after power-on or soft reset (R138). -/
def Scan.reset : Scan :=
  { state := .empty, first := 0, count := 0, period := 0, passLimit := 0, remaining := 0,
    target := none, cls := 0, limit := 1, countdown := 0, counting := false, passNumber := 0,
    nextTemplate := 0, outstanding := 0, overruns := 0 }

/-! ### Queue engine (R157, R160, R168, R175) -/

/-- The states of a submission ring (R159). -/
inductive SqState where
  | absent
  | active
  | faulted
  | deleting
  deriving DecidableEq, Repr

/-- A submission ring descriptor (R157). `absent` is the state NONE. -/
structure Sq where
  state : SqState
  base : Word
  size : Nat
  head : Nat
  tail : Nat
  boundCq : Fin 8
  cls : Fin 4
  limit : Nat
  seq : BitVec 32
  deriving DecidableEq, Repr

/-- A descriptor in NONE: its fields are meaningless (R179) and stand at 0.
DESIGN CHOICE (notes/assumptions/10). -/
def Sq.gone : Sq :=
  { state := .absent, base := 0, size := 0, head := 0, tail := 0, boundCq := 0, cls := 0,
    limit := 0, seq := 0 }

/-- The administrative status codes (R183). -/
inductive AdminStatus where
  | success
  | invalidOpcode
  | invalidField
  | queueExists
  | noSuchQueue
  | inUse
  | busy
  | staleGeneration
  | verifyFailed
  | supplyLow
  | wearLimit
  | busError
  deriving DecidableEq, Repr

/-- An admin completion waiting to be written (R182, R183). -/
structure AdminDone where
  commandId : BitVec 16
  status : AdminStatus
  aux : Nat
  value : Int
  scanState : ScanState
  pass : Nat
  deriving DecidableEq, Repr

/-- The status of a SCAN_DONE record (R147). -/
inductive ScanDoneStatus where
  | completed
  | stopped
  deriving DecidableEq, Repr

/-- A SCAN_DONE record waiting to be written (R147). -/
structure ScanDone where
  scan : Fin 8
  status : ScanDoneStatus
  pass : Nat
  overruns : Nat
  remaining : Nat
  deriving DecidableEq, Repr

/-- The event kinds (R192). -/
inductive EventKind where
  | sqFetchError
  | cqWriteError
  | badSubmit
  | badRelease
  | converterDegraded
  | converterRestored
  | scanTargetLost
  deriving DecidableEq, Repr

/-- An event waiting to be written, with its merge count (R192, R193). -/
structure Event where
  kind : EventKind
  object : Nat
  mergeCount : Nat
  value : Int
  deriving DecidableEq, Repr

/-- A member of a posting list (R168). -/
inductive Member where
  | slot (i : Fin 16)
  | scanDone (d : ScanDone)
  | admin (d : AdminDone)
  | event (e : Event)
  deriving DecidableEq, Repr

/-- A completion record as its write begins (R204). -/
structure Record where
  value : BitVec 32
  aux : BitVec 32
  pass : BitVec 32
  id : BitVec 16
  generation : BitVec 16
  kind : Byte
  source : Byte
  status : Byte
  flags : Byte
  rangeUsed : Byte
  converterUsed : Byte
  samples : Byte
  sqHead : Byte
  limits : Byte
  scanState : Byte
  phase : Bool
  deriving DecidableEq, Repr

/-- The states of a completion ring (R162). -/
inductive CqState where
  | absent
  | active
  | faulted
  deriving DecidableEq, Repr

/-- A completion ring descriptor with its posting list, its write in progress and its coalescing
state (R160, R175). `writing` holds the record formed when the write of the oldest member began.
Timer setting and timer in units of 100 µs; a setting of 0 is Off, a timer of `none` is stopped. -/
structure Cq where
  state : CqState
  base : Word
  size : Nat
  tail : Nat
  head : Nat
  phase : Bool
  list : List Member
  writing : Option Record
  intEnable : Bool
  threshold : Nat
  timerSetting : Nat
  unsignalled : Nat
  timer : Option Nat
  deriving DecidableEq, Repr

/-- A descriptor in NONE: its fields are meaningless (R179) and stand at 0.
DESIGN CHOICE (notes/assumptions/10). -/
def Cq.gone : Cq :=
  { state := .absent, base := 0, size := 0, tail := 0, head := 0, phase := false, list := [],
    writing := none, intEnable := false, threshold := 0, timerSetting := 0, unsignalled := 0,
    timer := none }

/-! ### Administrative executor (R180) -/

/-- A command of the administrative ring, with its fields as fetched (R203). -/
inductive AdminCmd where
  | identify (addr : Word)
  | createCq (cqId : Byte) (base : Word) (size : BitVec 16) (intEnable : Bool) (threshold : Byte)
      (timer : Byte)
  | deleteCq (cqId : Byte)
  | createSq (sqId : Byte) (base : Word) (size : BitVec 16) (boundCq : Byte) (cls : Byte)
      (limit : Byte)
  | deleteSq (sqId : Byte)
  | abort (sqId : Byte) (select : Byte) (tag : BitVec 16)
  | calRead (entry : Byte) (addr : Word)
  | calWrite (entry : Byte) (budget : Byte) (expected : BitVec 16) (wordA : Word) (wordB : Word)
  | scanLoad (scan : Byte) (count : Byte) (addr : Word)
  | scanStart (scan : Byte) (period : BitVec 16) (passes : BitVec 16) (target : Byte) (cls : Byte)
      (limit : Byte)
  | scanStop (scan : Byte)
  | scanStatus (scan : Byte)
  | other (opcode : Byte)
  deriving DecidableEq, Repr

/-- What a command in hand keeps while it waits (R180, R182). -/
inductive AxWork where
  | nothing
  | identifyDma (addr : Word) (buffer : BitVec 2048)
  | calReadDma (addr : Word) (buffer : BitVec 128) (generation : Nat)
  | scanLoadDma (scan : Fin 8) (count : Nat) (addr : Word)
  | calWriting
  | stopping (scan : Fin 8)
  | deleting (sq : Fin 8) (aborted : Nat)
  deriving DecidableEq, Repr

/-- The command context of the AX (R180). -/
structure AxCtx where
  position : Nat
  commandId : BitVec 16
  cmd : AdminCmd
  work : AxWork
  deriving DecidableEq, Repr

/-- The state of the AX with its fetch index or command context (R180, R181). -/
inductive Ax where
  | idle
  | fetching (index : Nat)
  | executing (ctx : AxCtx)
  | posting (ctx : AxCtx)
  deriving DecidableEq, Repr

/-! ### Device control (R194, R196, R199, R200) -/

/-- The device states (R194). -/
inductive Device where
  | off
  | starting
  | ready
  | halting
  | fault
  deriving DecidableEq, Repr

/-- The fault codes (R200); `noFault` is 0. -/
inductive FaultCode where
  | noFault
  | badAdminConfig
  | adminSqFetchError
  | adminCqWriteError
  deriving DecidableEq, Repr

/-- ADMIN_SQ or ADMIN_CQ (R194, R205). -/
structure AdminReg where
  base : BitVec 20
  entriesM1 : BitVec 6
  deriving DecidableEq, Repr

/-- Where a converter stands in its start-up REF check (R99): not called for, called for and waiting
to begin (R93), under way, ended. -/
inductive Check where
  | notDue
  | due
  | running
  | ended
  deriving DecidableEq, Repr

/-! ### The whole state -/

/-- The state of the MS-216. `pending` is the queue of waiting commands and `freeTick` counts the
free values used (notes/assumptions/28); both are the model's own. -/
structure State where
  pending : List Instr
  heldInReset : Bool
  device : Device
  faultCode : FaultCode
  enable : Bool
  intEnable : Bool
  adminSq : AdminReg
  adminCq : AdminReg
  intPending : Byte
  loading : Bool
  checks : ByConv Check
  sqs : Table Sq 8
  cqs : Table Cq 8
  rotation : Table (Fin 15) 4
  slots : Table (Option SlotRec) 16
  age : List (Fin 16)
  termClaims : Table TermClaim 16
  sourceClaims : BySource (Option (Fin 16))
  convClaims : ByConv ConvClaim
  examDue : Bool
  conns : ByConv ConnSet
  sources : BySource SourceState
  convs : ByConv ConvRec
  cells : Table Cell 16
  shadows : Table Shadow 16
  writeCtx : Option WriteCtx
  templates : List Template
  scans : Table Scan 8
  ax : Ax
  freeTick : Nat
  deriving DecidableEq, Repr

/-- The reasons a step can stop with a fault: there are none. The manual gives every command of the
table an effect in every state, or says that it is ignored, so no meaning of this model faults. -/
inductive Fault where
  deriving DecidableEq, Repr

/-- The reasons a step can be refused. -/
inductive Refusal where
  /-- Raised by `exec` alone, for a command whose meaning is not written; every command of the table
  has one, so nothing raises it. Safe: the model stops. -/
  | notModelled (mnemonic : String)
  deriving DecidableEq, Repr

/-- The cells of an entry at `State.reset`: never programmed, so the counter is 0 (R117). The image
of such an entry is not given and stands at 0. DESIGN CHOICE (notes/assumptions/9), not safe. -/
def Cell.unprogrammed : Cell :=
  { image := { wordA := 0, wordB := 0, crc := 0 }, counter := 0 }

/-- The part right after power-on reset (R202, R194, R201, R138, R76, R62, R75, R27), its cells as
never programmed. The rotation pointers name scan7, the last of the 15 sources. -/
def State.reset : State :=
  { pending := []
    heldInReset := false
    device := .off
    faultCode := .noFault
    enable := false
    intEnable := false
    adminSq := { base := 0, entriesM1 := 0 }
    adminCq := { base := 0, entriesM1 := 0 }
    intPending := 0
    loading := false
    checks := { ca := .notDue, cb := .notDue }
    sqs := Vector.replicate 8 Sq.gone
    cqs := Vector.replicate 8 Cq.gone
    rotation := Vector.replicate 4 14
    slots := Vector.replicate 16 none
    age := []
    termClaims := Vector.replicate 16 .free
    sourceClaims := { ex0 := none, ex1 := none }
    convClaims := { ca := .free, cb := .free }
    examDue := false
    conns := { ca := ConnSet.rest, cb := ConnSet.rest }
    sources := { ex0 := .off, ex1 := .off }
    convs := { ca := ConvRec.reset, cb := ConvRec.reset }
    cells := Vector.replicate 16 Cell.unprogrammed
    shadows := Vector.replicate 16 Shadow.reset
    writeCtx := none
    templates := []
    scans := Vector.replicate 8 Scan.reset
    ax := .idle
    freeTick := 0 }

end Sys2Proof.Machine
end

