-- ==== Sys2Proof/Machine/Operands.lean ====
section
/-! DEFINITION. The operands of the commands: fields of 64-byte entries (R203), their encodings, the
checks of validation (R17), need sets (R48), phase lengths (R8, R73), calibration words (R116) and
the CRC of an entry image (R117). -/

namespace Sys2Proof.Machine

/-! ### Bytes of an entry (R203) -/

/-- Byte `i` of an entry. -/
def entryByte (e : Entry) (i : Nat) : Byte := e.extractLsb' (8 * i) 8

/-- The 16-bit little-endian field at byte `i`. -/
def entryHalf (e : Entry) (i : Nat) : BitVec 16 := e.extractLsb' (8 * i) 16

/-- The 32-bit little-endian field at byte `i`. -/
def entryWord (e : Entry) (i : Nat) : Word := e.extractLsb' (8 * i) 32

/-- OPCODE, byte 0 (R203). -/
def entryOpcode (e : Entry) : Byte := entryByte e 0

/-- TAG or COMMAND_ID, bytes 2-3 (R203). -/
def entryTag (e : Entry) : BitVec 16 := entryHalf e 2

/-- Bit `n` of FLAGS, byte 1 (R203). -/
def entryFlag (e : Entry) (n : Nat) : Bool := (entryByte e 1).getLsbD n

/-- OPCODE codes of requests (R203). -/
def opMeasure : Byte := 0x01#8
def opMark : Byte := 0x02#8

/-- The request fields of an entry or a template image (R203). -/
def entryRequest (e : Entry) : Request :=
  { opcode := entryOpcode e
    mode := entryByte e 4
    range := entryByte e 5
    aperture := entryByte e 6
    samples := entryByte e 7
    termA := entryByte e 8
    termB := entryByte e 9
    termC := entryByte e 10
    termD := entryByte e 11
    source := entryByte e 12
    level := entryByte e 13
    converter := entryByte e 14
    extraSettle := entryHalf e 16
    noAutozero := entryFlag e 0
    raw := entryFlag e 1 }

/-- The limit block of a template image, present when FLAGS bit 3 is set (R137, R203). -/
def entryLimits (e : Entry) : Option LimitBlock :=
  if entryFlag e 3 then
    some
      { low := (entryWord e 32).toInt
        high := (entryWord e 36).toInt
        hysteresis := (entryWord e 40).toNat
        changesOnly := entryFlag e 4 }
  else none

/-- A template as loaded: its LIMIT STATE is UNKNOWN (R140). -/
def entryTemplate (e : Entry) : Template :=
  { request := entryRequest e, limits := entryLimits e, limitState := .unknown }

/-- The command of an SQ0 entry (R203). -/
def entryAdmin (e : Entry) : AdminCmd :=
  let b := entryByte e
  match (b 0).toNat with
  | 0x10 => .identify (entryWord e 8)
  | 0x11 => .createCq (b 4) (entryWord e 8) (entryHalf e 12) ((b 5).getLsbD 0) (b 6) (b 7)
  | 0x12 => .deleteCq (b 4)
  | 0x13 => .createSq (b 4) (entryWord e 8) (entryHalf e 12) (b 5) (b 6) (b 7)
  | 0x14 => .deleteSq (b 4)
  | 0x15 => .abort (b 4) (b 5) (entryHalf e 6)
  | 0x16 => .calRead (b 4) (entryWord e 8)
  | 0x17 => .calWrite (b 4) (b 5) (entryHalf e 6) (entryWord e 8) (entryWord e 12)
  | 0x18 => .scanLoad (b 4) (b 5) (entryWord e 8)
  | 0x19 => .scanStart (b 4) (entryHalf e 8) (entryHalf e 10) (b 5) (b 6) (b 7)
  | 0x1A => .scanStop (b 4)
  | 0x1B => .scanStatus (b 4)
  | _ => .other (b 0)

/-- Whether an OPCODE names an admin command (R203). -/
def namesAdmin (opcode : Byte) : Bool := 0x10 ≤ opcode.toNat && opcode.toNat ≤ 0x1B

/-! ### Encodings of request fields (R203) -/

/-- MODE by its code. -/
def modeOf (b : Byte) : Option Mode :=
  match b.toNat with
  | 0 => some .voltSe
  | 1 => some .voltDiff
  | 2 => some .res2w
  | 3 => some .res4w
  | 4 => some .supply
  | 5 => some .ref
  | _ => none

/-- A range by its code; AUTO (4) is none of them. -/
def rangeOf (b : Byte) : Option Range :=
  match b.toNat with
  | 0 => some .g0
  | 1 => some .g1
  | 2 => some .g2
  | 3 => some .g3
  | _ => none

/-- The index of a range (R107, R204). -/
def Range.index : Range → Nat
  | .g0 => 0
  | .g1 => 1
  | .g2 => 2
  | .g3 => 3

/-- One range wider; G0 has none (R86). -/
def Range.wider : Range → Range
  | .g3 => .g2
  | .g2 => .g1
  | .g1 => .g0
  | .g0 => .g0

/-- One range narrower; G3 has none (R86). -/
def Range.narrower : Range → Range
  | .g0 => .g1
  | .g1 => .g2
  | .g2 => .g3
  | .g3 => .g3

/-- The index of a level (R107). -/
def Level.index : Level → Nat
  | .i0 => 0
  | .i1 => 1
  | .i2 => 2

/-- The MODE of a request; meant for validated requests, whose code is one of the six. -/
def Request.modeV (r : Request) : Mode := (modeOf r.mode).getD .voltSe

/-- Whether RANGE is AUTO. -/
def Request.isAuto (r : Request) : Bool := r.range.toNat == 4

/-- The starting range: RANGE when it names G0-G3, and G0 otherwise (R19, R30, R48). A validated SUPPLY or
REF has RANGE G0 by check 4. DESIGN CHOICE: an entry aborted before validation whose MODE is SUPPLY or REF
and whose RANGE names G1 to G3 carries its RANGE, as R30 words it, though R48 gives G0 by mode
(notes/assumptions/23). -/
def Request.startRange (r : Request) : Range := (rangeOf r.range).getD .g0

/-- The APERTURE of a request (R8). -/
def Request.apertureV (r : Request) : Aperture :=
  match r.aperture.toNat with
  | 0 => .ap0
  | 1 => .ap1
  | 2 => .ap2
  | _ => .ap3

/-- The LEVEL of a request (R5). -/
def Request.levelV (r : Request) : Level :=
  match r.level.toNat with
  | 0 => .i0
  | 1 => .i1
  | _ => .i2

/-- A terminal field as a terminal number; validated fields are at most 15 (R17). -/
def termOf (b : Byte) : Fin 16 := ⟨b.toNat % 16, Nat.mod_lt _ (by decide)⟩

/-- The converter choice of a request (R12, R48). -/
def Request.convChoice (r : Request) : ConvChoice :=
  match r.converter.toNat with
  | 1 => .only .ca
  | 2 => .only .cb
  | _ => .either

/-- The source choice named by SOURCE in a resistance mode (R5, R48). -/
def Request.namedSource (r : Request) : SourceChoice :=
  match r.source.toNat with
  | 1 => .only .ex0
  | 2 => .only .ex1
  | _ => .either

/-- Whether a mode is one of the two resistance modes (R3). -/
def Mode.isResistance : Mode → Bool
  | .res2w => true
  | .res4w => true
  | _ => false

/-- The need set of a request (R48). -/
def Request.needs (r : Request) : NeedSet :=
  let a := termOf r.termA
  let b := termOf r.termB
  match r.modeV with
  | .voltSe => { conv := r.convChoice, terms := [(a, .sense)], source := .noSource }
  | .voltDiff =>
    { conv := r.convChoice, terms := [(a, .sense), (b, .sense)], source := .noSource }
  | .res2w =>
    { conv := r.convChoice, terms := [(a, .drive), (b, .drive)], source := r.namedSource }
  | .res4w =>
    { conv := r.convChoice
      terms := [(a, .drive), (b, .drive), (termOf r.termC, .sense), (termOf r.termD, .sense)]
      source := r.namedSource }
  | .supply => { conv := r.convChoice, terms := [], source := .noSource }
  | .ref => { conv := r.convChoice, terms := [], source := .noSource }

/-- The connection set of a request, active (R65). -/
def Request.connections (r : Request) : ConnSet :=
  let a := termOf r.termA
  let b := termOf r.termB
  match r.modeV with
  | .voltSe => { plus := .terminal a, minus := .agnd, driveHigh := none, driveLow := none }
  | .voltDiff =>
    { plus := .terminal a, minus := .terminal b, driveHigh := none, driveLow := none }
  | .res2w =>
    { plus := .terminal a, minus := .terminal b, driveHigh := some a, driveLow := some b }
  | .res4w =>
    { plus := .terminal (termOf r.termC), minus := .terminal (termOf r.termD)
      driveHigh := some a, driveLow := some b }
  | .supply => { plus := .supplyDivider, minus := .agnd, driveHigh := none, driveLow := none }
  | .ref => { plus := .refChannel, minus := .agnd, driveHigh := none, driveLow := none }

/-! ### Validation (R17) -/

/-- The terminal fields a mode uses (R14). -/
def Request.usedTerms (r : Request) : List Byte :=
  match r.modeV with
  | .voltSe => [r.termA]
  | .voltDiff => [r.termA, r.termB]
  | .res2w => [r.termA, r.termB]
  | .res4w => [r.termA, r.termB, r.termC, r.termD]
  | .supply => []
  | .ref => []

/-- Whether the members of a list are distinct. -/
def allDistinct : List Byte → Bool
  | [] => true
  | x :: xs => !xs.contains x && allDistinct xs

/-- Whether a mode converts on G0 only (R4). -/
def Mode.isInternal : Mode → Bool
  | .supply => true
  | .ref => true
  | _ => false

/-- The checks 2 to 9 of R17 on a MEASURE: the number of the first that fails. -/
def failingMeasureCheck (r : Request) : Option Nat :=
  if (modeOf r.mode).isNone then some 2
  else if r.usedTerms.any (fun b => 15 < b.toNat) then some 3
  else if 4 < r.range.toNat || (r.modeV.isInternal && r.range.toNat != 0) then some 4
  else if 3 < r.aperture.toNat then some 5
  else if r.samples.toNat == 0 || 16 < r.samples.toNat then some 6
  else if r.modeV.isResistance && (2 < r.source.toNat || 2 < r.level.toNat) then some 7
  else if 2 < r.converter.toNat then some 8
  else if !allDistinct r.usedTerms then some 9
  else none

/-- The validation of a submission ring entry (R16, R17): a MARK passes check 1 and is then valid. -/
def failingCheck (r : Request) : Option Nat :=
  if r.opcode == opMark then none
  else if r.opcode != opMeasure then some 1
  else failingMeasureCheck r

/-- The validation of a template (R17, R140): check 1 refuses MARK, check 10 is the limit block. -/
def failingTemplateCheck (t : Template) : Option Nat :=
  if t.request.opcode != opMeasure then some 1
  else
    match failingMeasureCheck t.request with
    | some n => some n
    | none =>
      match t.limits with
      | none => none
      | some l => if l.high < l.low || l.high - l.low < 2 * (l.hysteresis : Int) then some 10 else none

/-- The index and the failing check of the first template that fails (R140). -/
def firstFailingTemplate : Nat → List Template → Option (Nat × Nat)
  | _, [] => none
  | i, t :: ts =>
    match failingTemplateCheck t with
    | some n => some (i, n)
    | none => firstFailingTemplate (i + 1) ts

/-! ### Phase lengths (R8, R73, R78, R87, R92) -/

/-- The run-up length N of an aperture, in counts (R8). -/
def Aperture.counts : Aperture → Nat
  | .ap0 => 200000
  | .ap1 => 40000
  | .ap2 => 10000
  | .ap3 => 2000

/-- The overrange limit 1.25 N, in counts (R81). -/
def Aperture.limit (a : Aperture) : Nat := a.counts + a.counts / 4

/-- LSB per count (R104). -/
def Aperture.lsbPerCount : Aperture → Nat
  | .ap0 => 50
  | .ap1 => 250
  | .ap2 => 1000
  | .ap3 => 5000

/-- The matrix settle, in µs (R73). -/
def matrixSettle : Nat := 200

/-- The range settle and the RANGING phase, in µs (R73, R87). -/
def rangeSettle : Nat := 500

/-- The autozero, in µs (R78). -/
def autozeroTime : Nat := 1000

/-- The recovery, in µs (R92). -/
def recoveryTime : Nat := 1000

/-- The excitation settle of a level, in µs (R73). -/
def Level.settle : Level → Nat
  | .i0 => 300
  | .i1 => 1000
  | .i2 => 5000

/-- The length of a request's settling phase on a converter standing on range `g` (R73). -/
def Request.settleTime (r : Request) (g : Range) : Nat :=
  matrixSettle + (if g = r.startRange then 0 else rangeSettle)
    + (if r.modeV.isResistance then r.levelV.settle else 0) + r.extraSettle.toNat

/-! ### Calibration entries (R109, R116, R117, R124) -/

/-- The voltage entry of a converter and range: 0-3 for CA, 4-7 for CB (R116). -/
def voltageEntry (c : Conv) (g : Range) : Fin 16 :=
  match c, g with
  | .ca, .g0 => 0
  | .ca, .g1 => 1
  | .ca, .g2 => 2
  | .ca, .g3 => 3
  | .cb, .g0 => 4
  | .cb, .g1 => 5
  | .cb, .g2 => 6
  | .cb, .g3 => 7

/-- The excitation entry of a source and level: 8-10 for EX0, 11-13 for EX1 (R107, R116). -/
def currentEntry (x : SourceId) (l : Level) : Fin 16 :=
  match x, l with
  | .ex0, .i0 => 8
  | .ex0, .i1 => 9
  | .ex0, .i2 => 10
  | .ex1, .i0 => 11
  | .ex1, .i1 => 12
  | .ex1, .i2 => 13

/-- The REF entry of a converter (R116). -/
def refEntry : Conv → Fin 16
  | .ca => 14
  | .cb => 15

/-- Whether word A lies within its range for the entry (R116). -/
def wordAInRange (entry : Nat) (a : Word) : Bool :=
  if entry ≤ 7 then decide (-1000000 ≤ a.toInt) && decide (a.toInt ≤ 1000000)
  else if entry ≤ 13 then true
  else decide (-12500000 ≤ a.toInt) && decide (a.toInt ≤ 12500000)

/-- Whether a gain lies within its range (R116). -/
def gainInRange (b : Word) : Bool := 536870912 ≤ b.toNat && b.toNat ≤ 2147483647

/-- Whether word B lies within its range for the entry: a gain, or 0 (R116). -/
def wordBInRange (entry : Nat) (b : Word) : Bool :=
  if entry ≤ 7 then gainInRange b else b.toNat == 0

/-- The pulse budget of a BUDGET code (R124). -/
def budgetPulses (code : Nat) : Nat :=
  match code with
  | 0 => 4
  | 1 => 8
  | 2 => 16
  | _ => 32

/-- One bit of the CRC register's advance (R117). -/
def crcShift (r : BitVec 16) : BitVec 16 :=
  if r.getLsbD 15 then (r <<< 1) ^^^ 0x1021#16 else r <<< 1

/-- The CRC register after `n` further bits. -/
def crcShifts : Nat → BitVec 16 → BitVec 16
  | 0, r => r
  | n + 1, r => crcShifts n (crcShift r)

/-- The CRC register after one byte, most significant bit first (R117). -/
def crcByte (r : BitVec 16) (b : Byte) : BitVec 16 := crcShifts 8 (r ^^^ (b.setWidth 16 <<< 8))

/-- The bytes of a word, least significant first. -/
def wordBytes (w : Word) : List Byte :=
  [w.extractLsb' 0 8, w.extractLsb' 8 8, w.extractLsb' 16 8, w.extractLsb' 24 8]

/-- The CRC-16 of words A and B (R117). -/
def crcOf (a b : Word) : BitVec 16 := (wordBytes a ++ wordBytes b).foldl crcByte 0xFFFF#16

/-- The image of two words with its CRC (R127). -/
def imageOf (a b : Word) : CalImage := { wordA := a, wordB := b, crc := crcOf a b }

/-- Whether an image is consistent (R117). -/
def CalImage.consistent (m : CalImage) : Bool := m.crc == crcOf m.wordA m.wordB

/-- The cells after a pulse that has brought the cells of `moved` to the new image and left the
others unchanged (R128). -/
def CalImage.pulsed (old target : CalImage) (moved : BitVec 80) : CalImage :=
  let ma : Word := moved.extractLsb' 0 32
  let mb : Word := moved.extractLsb' 32 32
  let mc : BitVec 16 := moved.extractLsb' 64 16
  { wordA := (old.wordA &&& ~~~ma) ||| (target.wordA &&& ma)
    wordB := (old.wordB &&& ~~~mb) ||| (target.wordB &&& mb)
    crc := (old.crc &&& ~~~mc) ||| (target.crc &&& mc) }

/-- The shadow that the start-up load makes of an entry's cells (R120). -/
def Cell.loaded (c : Cell) (entry : Nat) : Shadow :=
  { wordA := c.image.wordA
    wordB := c.image.wordB
    generation := c.counter
    valid := c.image.consistent && c.counter != 0 && wordAInRange entry c.image.wordA
      && wordBInRange entry c.image.wordB }

/-! ### Numbers of rings, scans and entries -/

/-- A queue, scan or other number of 0-7. -/
def eighth (n : Nat) : Fin 8 := ⟨n % 8, Nat.mod_lt _ (by decide)⟩

/-- A calibration entry number of 0-15. -/
def sixteenth (n : Nat) : Fin 16 := ⟨n % 16, Nat.mod_lt _ (by decide)⟩

/-- A class of 0-3. -/
def classOf (n : Nat) : Fin 4 := ⟨n % 4, Nat.mod_lt _ (by decide)⟩

/-- All slots, lowest first. -/
def allSlots : List (Fin 16) := [0, 1, 2, 3, 4, 5, 6, 7, 8, 9, 10, 11, 12, 13, 14, 15]

/-- All rings of one kind, or all scans, lowest first. -/
def allEight : List (Fin 8) := [0, 1, 2, 3, 4, 5, 6, 7]

/-- All classes, class 0 first. -/
def allClasses : List (Fin 4) := [0, 1, 2, 3]

/-- The next index of a ring (scope file: arithmetic on ring indices is modulo the ring size). -/
def nextIndex (i size : Nat) : Nat := (i + 1) % size

/-- How far `b` lies forward of `a` in a ring. -/
def ringDistance (a b size : Nat) : Nat := (b + size - a) % size

/-- Whether admission sequence number `a` is earlier than `b` (R25). -/
def seqEarlier (a b : BitVec 32) : Bool := 1 ≤ (b - a).toNat && (b - a).toNat ≤ 2147483647

end Sys2Proof.Machine
end

