-- ==== Sys2Proof/Machine/Flags.lean ====
section
/-! DEFINITION. Status codes, flags and layouts: the completion record (R204), the identity record
(R186, R204), the entry image record (R122), the registers as read (R205) and INT_N (R177). -/

namespace Sys2Proof.Machine

/-! ### Codes (R204) -/

def ReqStatus.code : ReqStatus → Nat
  | .success => 0
  | .overrange => 1
  | .aborted => 2
  | .invalidRequest => 3
  | .calInvalid => 4
  | .refOutOfTolerance => 5

def AdminStatus.code : AdminStatus → Nat
  | .success => 0
  | .invalidOpcode => 1
  | .invalidField => 2
  | .queueExists => 3
  | .noSuchQueue => 4
  | .inUse => 5
  | .busy => 6
  | .staleGeneration => 7
  | .verifyFailed => 8
  | .supplyLow => 9
  | .wearLimit => 10
  | .busError => 11

def ScanDoneStatus.code : ScanDoneStatus → Nat
  | .completed => 0
  | .stopped => 1

def EventKind.code : EventKind → Nat
  | .sqFetchError => 0
  | .cqWriteError => 1
  | .badSubmit => 2
  | .badRelease => 3
  | .converterDegraded => 4
  | .converterRestored => 5
  | .scanTargetLost => 6

def AbortDetail.code : AbortDetail → Nat
  | .abortCmd => 1
  | .queueDeleted => 2
  | .halt => 3

def LimitState.code : LimitState → Nat
  | .unknown => 0
  | .inside => 1
  | .below => 2
  | .above => 3

def ScanState.code : ScanState → Nat
  | .empty => 0
  | .loaded => 1
  | .running => 2
  | .stopping => 3

def SqState.code : SqState → Nat
  | .absent => 0
  | .active => 1
  | .faulted => 2
  | .deleting => 3

def CqState.code : CqState → Nat
  | .absent => 0
  | .active => 1
  | .faulted => 2

def Device.code : Device → Nat
  | .off => 0
  | .starting => 1
  | .ready => 2
  | .halting => 3
  | .fault => 4

def FaultCode.code : FaultCode → Nat
  | .noFault => 0
  | .badAdminConfig => 1
  | .adminSqFetchError => 2
  | .adminCqWriteError => 3

/-- The converter-used field: 0 NONE, 1 CA, 2 CB. -/
def convCode : Option Conv → Nat
  | none => 0
  | some .ca => 1
  | some .cb => 2

/-- The object of a converter's event: 1 CA, 2 CB (R204). -/
def convObject (c : Conv) : Nat := convCode (some c)

/-- One bit of a flags byte. -/
def bitAt (n : Nat) (b : Bool) : Nat := if b then 2 ^ n else 0

/-- The flags byte of a record (R204). -/
def RecFlags.code (f : RecFlags) : Nat :=
  bitAt 0 f.raw + bitAt 1 f.autoranged + bitAt 2 f.degraded + bitAt 3 f.overrangePos
    + bitAt 4 f.overrangeNeg + bitAt 5 f.limitChange

/-- No flags (R20). -/
def RecFlags.clear : RecFlags :=
  { raw := false, autoranged := false, degraded := false, overrangePos := false,
    overrangeNeg := false, limitChange := false }

/-! ### Results without a measurement (R15, R19, R36, R40) -/

/-- A result of value 0 without flags or generation. -/
def plainResult (status : ReqStatus) (aux : Nat) (limits : LimitState) : Result :=
  { value := 0, status := status, aux := aux, generation := 0, flags := RecFlags.clear,
    limitNew := limits, limitPrev := limits }

/-- The ABORTED result (R19, R40); `limits` is the template's LIMIT STATE (R150). -/
def abortedResult (d : AbortDetail) (limits : LimitState) : Result :=
  plainResult .aborted d.code limits

/-- The INVALID_REQUEST result (R19). -/
def invalidResult (check : Nat) : Result := plainResult .invalidRequest check .unknown

/-- The result of a MARK that leaves FENCED (R36). -/
def markResult : Result := plainResult .success 0 .unknown

/-! ### Completion records (R204) -/

/-- Bytes packed into a little-endian number. -/
def packBytes : List Byte → Nat
  | [] => 0
  | b :: bs => b.toNat + 256 * packBytes bs

/-- The two bytes of a half-word, least significant first. -/
def halfBytes (h : BitVec 16) : List Byte := [h.extractLsb' 0 8, h.extractLsb' 8 8]

/-- The 32 bytes of a completion record (R204). -/
def Record.bytes (r : Record) : List Byte :=
  wordBytes r.value ++ wordBytes r.aux ++ wordBytes r.pass ++ halfBytes r.id
    ++ halfBytes r.generation
    ++ [r.kind, r.source, r.status, r.flags, r.rangeUsed, r.converterUsed, r.samples, r.sqHead,
        r.limits, r.scanState, 0, 0, 0, 0, 0, if r.phase then 1 else 0]

/-- A record with every field 0 (R204). -/
def Record.zero (phase : Bool) : Record :=
  { value := 0, aux := 0, pass := 0, id := 0, generation := 0, kind := 0, source := 0, status := 0,
    flags := 0, rangeUsed := 0, converterUsed := 0, samples := 0, sqHead := 0, limits := 0,
    scanState := 0, phase := phase }

/-- A byte of a record. -/
def byteOf (n : Nat) : Byte := BitVec.ofNat 8 n

/-- The record of a finished slot (R19, R168, R169, R204). -/
def slotRecord (r : SlotRec) (sqHead : Nat) (phase : Bool) : Record :=
  let res := r.result.getD markResult
  { Record.zero phase with
    value := BitVec.ofInt 32 res.value
    aux := BitVec.ofNat 32 res.aux
    pass := match r.origin with
      | .sq _ _ _ => 0
      | .scan _ _ pass => BitVec.ofNat 32 pass
    id := match r.origin with
      | .sq _ _ (some a) => a.tag
      | .sq _ _ none => 0
      | .scan _ index _ => BitVec.ofNat 16 index
    generation := BitVec.ofNat 16 res.generation
    kind := match r.origin with
      | .sq _ _ _ => 0
      | .scan _ _ _ => 1
    source := match r.origin with
      | .sq q _ _ => byteOf q.val
      | .scan id _ _ => byteOf id.val
    status := byteOf res.status.code
    flags := byteOf res.flags.code
    rangeUsed := byteOf r.currentRange.index
    converterUsed := byteOf (convCode (r.grant.map Grant.conv))
    samples := byteOf r.samplesDone
    sqHead := byteOf sqHead
    limits := byteOf (res.limitNew.code + 4 * res.limitPrev.code) }

/-- The record of a SCAN_DONE (R147, R204). -/
def scanDoneRecord (d : ScanDone) (phase : Bool) : Record :=
  { Record.zero phase with
    value := BitVec.ofNat 32 d.remaining
    aux := BitVec.ofNat 32 d.overruns
    pass := BitVec.ofNat 32 d.pass
    kind := 4
    source := byteOf d.scan.val
    status := byteOf d.status.code }

/-- The record of an admin completion (R183, R204). -/
def adminRecord (d : AdminDone) (sqHead : Nat) (phase : Bool) : Record :=
  { Record.zero phase with
    value := BitVec.ofInt 32 d.value
    aux := BitVec.ofNat 32 d.aux
    pass := BitVec.ofNat 32 d.pass
    id := d.commandId
    kind := 2
    status := byteOf d.status.code
    sqHead := byteOf sqHead
    scanState := byteOf d.scanState.code }

/-- The record of an event (R192, R204). -/
def eventRecord (e : Event) (phase : Bool) : Record :=
  { Record.zero phase with
    value := BitVec.ofInt 32 e.value
    aux := BitVec.ofNat 32 e.mergeCount
    kind := 3
    source := byteOf e.object
    status := byteOf e.kind.code }

/-- The record of a posting-list member, formed as its write begins (R169). -/
def memberRecord (s : State) (m : Member) (phase : Bool) : Record :=
  match m with
  | .slot i =>
    match s.slots.look i with
    | some r =>
      slotRecord r
        (match r.origin with
          | .sq q _ _ => (s.sqs.look q).head
          | .scan _ _ _ => 0)
        phase
    | none => Record.zero phase
  | .scanDone d => scanDoneRecord d phase
  | .admin d => adminRecord d (s.sqs.look 0).head phase
  | .event e => eventRecord e phase

/-! ### Entry image and identity record (R122, R186, R204) -/

/-- The 16-byte entry image record of CAL_READ. -/
def calRecord (c : Cell) (valid : Bool) : BitVec 128 :=
  BitVec.ofNat 128 (packBytes
    (wordBytes c.image.wordA ++ wordBytes c.image.wordB ++ halfBytes c.image.crc
      ++ halfBytes (BitVec.ofNat 16 c.counter) ++ [if valid then 1 else 0]))

/-- The constant IDENT register (R205). -/
def identValue : Word := BitVec.ofNat 32 (0x3B1 * 2 ^ 20 + 1 * 2 ^ 16 + 16 * 2 ^ 10 + 2 * 2 ^ 8 + 16)

/-- The free places of template memory (R136). -/
def freePlaces (s : State) : Nat := 128 - (allEight.map fun k => (s.scans.look k).count).sum

/-- The bytes 0 to 103 of the identity record; bytes 104-255 are 0. -/
def identityBytes (s : State) : List Byte :=
  wordBytes identValue
    ++ ([16, 2, 2, 16, 8, 8, 8, 16, 128].map byteOf)
    ++ [byteOf (freePlaces s),
        byteOf (bitAt 0 s.convs.ca.degraded + bitAt 1 s.convs.cb.degraded), 0]
    ++ allEight.map (fun k => byteOf (s.scans.look k).state.code)
    ++ allEight.map (fun q => byteOf (s.sqs.look q).state.code)
    ++ allEight.map (fun c => byteOf (s.cqs.look c).state.code)
    ++ allSlots.flatMap (fun e =>
        halfBytes (BitVec.ofNat 16 (s.shadows.look e).generation)
          ++ [if (s.shadows.look e).valid then 1 else 0, 0])

/-- The 256-byte identity record of IDENTIFY. -/
def identityRecord (s : State) : BitVec 2048 := BitVec.ofNat 2048 (packBytes (identityBytes s))

/-! ### Registers as read and INT_N (R177, R194, R205) -/

/-- ADMIN_SQ or ADMIN_CQ as read. -/
def AdminReg.value (r : AdminReg) : Word :=
  BitVec.ofNat 32 (r.base.toNat * 2 ^ 12 + r.entriesM1.toNat)

/-- The register that stands at a byte offset of the window (R194). -/
def regAt (offset : BitVec 5) : Option Reg :=
  match offset.toNat with
  | 0x00 => some .ident
  | 0x04 => some .control
  | 0x08 => some .status
  | 0x0C => some .adminSq
  | 0x10 => some .adminCq
  | 0x14 => some .submit
  | 0x18 => some .release
  | 0x1C => some .intPending
  | _ => none

/-- A register of the window as read. A read changes nothing; SUBMIT and RELEASE read 0. -/
def readReg (s : State) : Reg → Word
  | .ident => identValue
  | .control => BitVec.ofNat 32 (bitAt 0 s.enable + bitAt 1 s.intEnable)
  | .status => BitVec.ofNat 32 (s.device.code + 2 ^ 8 * s.faultCode.code)
  | .adminSq => s.adminSq.value
  | .adminCq => s.adminCq.value
  | .submit => 0
  | .release => 0
  | .intPending => s.intPending.setWidth 32

/-- What a read at a byte offset of the window answers (R194); while RST_N is low no access is taken
(R202). -/
def readWindow (s : State) (offset : BitVec 5) : Option Word :=
  if s.heldInReset then none else (regAt offset).map (readReg s)

/-- Whether INT_N is asserted, low (R177). -/
def intAsserted (s : State) : Bool :=
  s.intEnable && allEight.any fun c => s.intPending.getLsbD c.val && (s.cqs.look c).intEnable

end Sys2Proof.Machine
end

