-- ==== Sys2Proof/Machine/Correction.lean ====
section
/-! DEFINITION. The correction unit's arithmetic (chapter 6) and limit classification (R151): pure
functions of the slot's counts and of the calibration snapshot. -/

namespace Sys2Proof.Machine

/-- `a / b` rounded to the nearest integer, halves away from zero (R104). -/
def roundDiv (a : Int) (b : Nat) : Int :=
  let q : Nat := (2 * a.natAbs + b) / (2 * b)
  if a < 0 then -(q : Int) else q

/-- The averaged count (R104). -/
def averageCount (sum : Int) (samples : Nat) : Int := roundDiv sum samples

/-- The uncorrected value in LSB (R104). -/
def uncorrected (a : Aperture) (average : Int) : Int := a.lsbPerCount * average

/-- The calibrated voltage (R105): `round((u - offset) * gain / 2^30)`. -/
def calibratedVoltage (u : Int) (entry : Shadow) : Int :=
  roundDiv ((u - entry.wordA.toInt) * entry.wordB.toNat) (2 ^ 30)

/-- The resistance in mΩ before the overflow test (R107): `round(v * 10^(9 - g) / I)`; `none` when
the current entry is 0. -/
def resistance (v : Int) (g : Range) (current : Nat) : Option Int :=
  if current = 0 then none else some (roundDiv (v * 10 ^ (9 - g.index)) current)

/-- Whether a REF reading `v` lies within 500 ppm of the expected reading `r` (R95). -/
def refInside (v r : Int) : Bool := decide ((v - r).natAbs * 2000 ≤ r.natAbs)

/-- The greatest and the least signed 32-bit values (R108). -/
def maxValue : Int := 2147483647
def minValue : Int := -2147483648

/-- The value of an overranged sample (R9, R19). -/
def overrangeValue : Int := 12500000

/-- The outcome of correction (R103): status, value, generation and aux, and the sign of an
OVERRANGE. -/
structure Corrected where
  status : ReqStatus
  value : Int
  generation : Nat
  aux : Nat
  sign : Option Sign
  deriving DecidableEq, Repr

/-- OVERRANGE from a sample (R103, order 1). -/
def sampleOverrange (sg : Sign) : Corrected :=
  { status := .overrange
    value := match sg with
      | .pos => overrangeValue
      | .neg => -overrangeValue
    generation := 0
    aux := 0
    sign := some sg }

/-- A count as the result: RAW (R113) or CAL_INVALID (R112). -/
def countOutcome (status : ReqStatus) (average : Int) : Corrected :=
  { status := status, value := average, generation := 0, aux := 0, sign := none }

/-- The overflow test on a value formed with the snapshot (R108); `none` stands for a quotient by a
current of 0, whose sign is that of `v`, 0 counting as positive (R107). -/
def overflowTest (value : Option Int) (v : Int) (generation aux : Nat) : Corrected :=
  let high : Corrected :=
    { status := .overrange, value := maxValue, generation := generation, aux := aux,
      sign := some .pos }
  let low : Corrected :=
    { status := .overrange, value := minValue, generation := generation, aux := aux,
      sign := some .neg }
  match value with
  | none => if v < 0 then low else high
  | some x =>
    if maxValue < x then high
    else if x < minValue then low
    else
      { status := .success, value := x, generation := generation, aux := aux, sign := none }

/-- The calibrated outcome of order 4 in every mode (R105 to R108, R111). A REF value is compared
and not tested for overflow (R108). -/
def calibratedOutcome (m : Mode) (g : Range) (u : Int) (volt ref : Shadow) (cur : Shadow) :
    Corrected :=
  let v := calibratedVoltage u volt
  match m with
  | .voltSe => overflowTest (some v) v volt.generation 0
  | .voltDiff => overflowTest (some v) v volt.generation 0
  | .supply => overflowTest (some (4 * v)) v volt.generation 0
  | .ref =>
    { status := if refInside v ref.wordA.toInt then .success else .refOutOfTolerance
      value := v, generation := volt.generation, aux := 0, sign := none }
  | .res2w => overflowTest (resistance v g cur.wordA.toNat) v volt.generation cur.generation
  | .res4w => overflowTest (resistance v g cur.wordA.toNat) v volt.generation cur.generation

/-- Whether an entry that the mode needs is INVALID in the snapshot (R109, R112). -/
def neededInvalid (m : Mode) (volt ref cur : Shadow) : Bool :=
  !volt.valid || (m == .ref && !ref.valid) || (m.isResistance && !cur.valid)

/-- The outcome of correction, by the order of R103. -/
def correctionOutcome (m : Mode) (raw : Bool) (a : Aperture) (g : Range) (samples : Nat) (sum : Int)
    (seen : Option Sign) (volt ref cur : Shadow) : Corrected :=
  let average := averageCount sum samples
  match seen with
  | some sg => sampleOverrange sg
  | none =>
    if raw then countOutcome .success average
    else if neededInvalid m volt ref cur then countOutcome .calInvalid average
    else calibratedOutcome m g (uncorrected a average) volt ref cur

/-- The DEGRADED flag after a REF of this outcome (R96, R98, R103): RAW and CAL_INVALID leave it;
an overranged sample or a reading outside tolerance sets it; inside tolerance clears it. -/
def degradedAfter (before raw : Bool) (status : ReqStatus) : Bool :=
  if raw then before
  else
    match status with
    | .success => false
    | .overrange => true
    | .refOutOfTolerance => true
    | _ => before

/-- The flags of a record at CORRECTING entry (R20, R114). -/
def stampFlags (raw auto degraded : Bool) (o : Corrected) : RecFlags :=
  { raw := raw || o.status == .calInvalid
    autoranged := auto
    degraded := degraded
    overrangePos := o.sign == some .pos
    overrangeNeg := o.sign == some .neg
    limitChange := false }

/-- The RESULT of a slot at CORRECTING entry (R102). -/
def Corrected.result (o : Corrected) (flags : RecFlags) : Result :=
  { value := o.value, status := o.status, aux := o.aux, generation := o.generation, flags := flags,
    limitNew := .unknown, limitPrev := .unknown }

/-! ### Limit classification (R150, R151) -/

/-- Whether a result stands above HIGH (R150): an OVERRANGE by its sign flag. -/
def standsAbove (l : LimitBlock) (r : Result) : Bool :=
  if r.status = .overrange then r.flags.overrangePos else decide (l.high < r.value)

/-- Whether a result stands below LOW (R150). -/
def standsBelow (l : LimitBlock) (r : Result) : Bool :=
  if r.status = .overrange then r.flags.overrangeNeg else decide (r.value < l.low)

/-- Whether a result has come back from above: `v ≤ HIGH - HYSTERESIS` (R151). -/
def backFromAbove (l : LimitBlock) (r : Result) : Bool :=
  if r.status = .overrange then false else decide (r.value ≤ l.high - (l.hysteresis : Int))

/-- Whether a result has come back from below: `v ≥ LOW + HYSTERESIS` (R151). -/
def backFromBelow (l : LimitBlock) (r : Result) : Bool :=
  if r.status = .overrange then false else decide (l.low + (l.hysteresis : Int) ≤ r.value)

/-- The new LIMIT STATE of a classified result (R151). -/
def classify (l : LimitBlock) (present : LimitState) (r : Result) : LimitState :=
  match present with
  | .above =>
    if standsBelow l r then .below else if backFromAbove l r then .inside else .above
  | .below =>
    if standsAbove l r then .above else if backFromBelow l r then .inside else .below
  | _ =>
    if standsAbove l r then .above else if standsBelow l r then .below else .inside

/-- Whether results of a status are classified (R150). -/
def ReqStatus.classified : ReqStatus → Bool
  | .success => true
  | .overrange => true
  | _ => false

end Sys2Proof.Machine
end

