-- ==== Sys2Proof/Machine/Ops.lean ====
section
/-! DEFINITION. The named operations shared by the commands: slots and age order, posting lists and
events, admin completions, claims and connections, aborts, the loss of a scan's target, FAULT, the
entries to STARTING and HALTING, and the resets. -/

namespace Sys2Proof.Machine

/-! ### One table entry at a time -/

/-- The state with slot `i` set; `none` is FREE. -/
def State.setSlot (s : State) (i : Fin 16) (x : Option SlotRec) : State :=
  { s with slots := s.slots.put i x }

/-- The state with the descriptor of SQ `q` set. -/
def State.setSq (s : State) (q : Fin 8) (x : Sq) : State := { s with sqs := s.sqs.put q x }

/-- The state with the descriptor of CQ `c` set. -/
def State.setCq (s : State) (c : Fin 8) (x : Cq) : State := { s with cqs := s.cqs.put c x }

/-- The state with the record of scan `k` set. -/
def State.setScan (s : State) (k : Fin 8) (x : Scan) : State := { s with scans := s.scans.put k x }

/-- The state with the record of converter `c` set. -/
def State.setConv (s : State) (c : Conv) (x : ConvRec) : State := { s with convs := s.convs.put c x }

/-! ### Slots (R21 to R24) -/

/-- Whether a slot's origin names SQ `q` (R23). -/
def SlotRec.fromSq (r : SlotRec) (q : Fin 8) : Bool :=
  match r.origin with
  | .sq q' _ _ => q' == q
  | .scan _ _ _ => false

/-- Whether a slot's origin names scan `k` (R23). -/
def SlotRec.fromScan (r : SlotRec) (k : Fin 8) : Bool :=
  match r.origin with
  | .sq _ _ _ => false
  | .scan k' _ _ => k' == k

/-- Whether slot `i` is occupied and its record meets `p`. -/
def State.slotMeets (s : State) (p : SlotRec → Bool) (i : Fin 16) : Bool :=
  match s.slots.look i with
  | some r => p r
  | none => false

/-- How many occupied slots meet `p` (R23). -/
def State.countSlots (s : State) (p : SlotRec → Bool) : Nat := allSlots.countP (s.slotMeets p)

/-- Whether some occupied slot meets `p`. -/
def State.anySlot (s : State) (p : SlotRec → Bool) : Bool := allSlots.any (s.slotMeets p)

/-- Slot `i` returns to FREE: it leaves age order (R24), and a slot of a scan lowers that scan's
OUTSTANDING (R144). -/
def freeSlot (i : Fin 16) (s : State) : State :=
  match s.slots.look i with
  | none => s
  | some r =>
    let s := { s.setSlot i none with age := s.age.erase i }
    match r.origin with
    | .sq _ _ _ => s
    | .scan k _ _ =>
      s.setScan k { s.scans.look k with outstanding := (s.scans.look k).outstanding - 1 }

/-- The template with index `index` of scan `k`; the last argument of `getD` is never met, since a
slot of a scan names one of its templates (R139). -/
def templateOf (s : State) (k : Fin 8) (index : Nat) : Option Template :=
  s.templates[(s.scans.look k).first + index]?

/-- The LIMIT STATE that an unclassified result carries in both limit-state fields (R150). -/
def carriedLimit (s : State) (r : SlotRec) : LimitState :=
  match r.origin with
  | .sq _ _ _ => .unknown
  | .scan k index _ =>
    match templateOf s k index with
    | some t => if t.limits.isSome then t.limitState else .unknown
    | none => .unknown

/-! ### Posting lists (R38, R168) -/

/-- A member joins the end of the list of CQ `c`, if that CQ is ACTIVE (R168). -/
def joinList (c : Fin 8) (m : Member) (s : State) : State :=
  if (s.cqs.look c).state = .active then
    s.setCq c { s.cqs.look c with list := (s.cqs.look c).list ++ [m] }
  else s

/-- The hand-off of a slot in POSTING (R38): it joins the list of its TARGET CQ, or returns to FREE
when that CQ is not ACTIVE or the slot is ORPHANED. -/
def handOff (i : Fin 16) (s : State) : State :=
  match s.slots.look i with
  | none => s
  | some r =>
    if (s.cqs.look r.targetCq).state = .active && !r.orphaned then joinList r.targetCq (.slot i) s
    else freeSlot i s

/-- Slot `i` enters POSTING with a result and is handed off. -/
def postSlot (i : Fin 16) (res : Result) (s : State) : State :=
  match s.slots.look i with
  | none => s
  | some r => handOff i (s.setSlot i (some { r with state := .posting, result := some res }))

/-! ### Events (R192, R193) -/

/-- The list of waiting members with an occurrence merged into the waiting event of the same kind
and object, if there is one (R193). -/
def mergeEvent (kind : EventKind) (object : Nat) : List Member → Option (List Member)
  | [] => none
  | .event e :: ms =>
    if e.kind = kind ∧ e.object = object then
      some (.event { e with mergeCount := min 255 (e.mergeCount + 1) } :: ms)
    else (mergeEvent kind object ms).map (.event e :: ·)
  | .slot i :: ms => (mergeEvent kind object ms).map (.slot i :: ·)
  | .scanDone d :: ms => (mergeEvent kind object ms).map (.scanDone d :: ·)
  | .admin d :: ms => (mergeEvent kind object ms).map (.admin d :: ·)

/-- The member of a CQ whose write is in progress stands at the front of its list (R169). -/
def Cq.inWrite (c : Cq) : List Member := if c.writing.isSome then c.list.take 1 else []

/-- The waiting members of a CQ: those whose write has not begun (R193). -/
def Cq.waiting (c : Cq) : List Member := if c.writing.isSome then c.list.drop 1 else c.list

/-- CQ0's list with an occurrence merged, or joined with merge count 1 (R193). -/
def Cq.withEvent (c : Cq) (kind : EventKind) (object : Nat) (value : Int) : Cq :=
  match mergeEvent kind object c.waiting with
  | some ms => { c with list := c.inWrite ++ ms }
  | none =>
    { c with
      list := c.list
        ++ [.event { kind := kind, object := object, mergeCount := 1, value := value }] }

/-- An event is raised (R192). None can be while CQ0 is not ACTIVE. -/
def raiseEvent (kind : EventKind) (object : Nat) (value : Int) (s : State) : State :=
  if (s.cqs.look 0).state = .active then
    s.setCq 0 ((s.cqs.look 0).withEvent kind object value)
  else s

/-! ### Admin completions (R182, R183) -/

/-- The command in hand ends: its completion joins CQ0's list and the AX enters POSTING. -/
def completeWith (status : AdminStatus) (aux : Nat) (value : Int) (scanState : ScanState)
    (pass : Nat) (s : State) : State :=
  match s.ax with
  | .executing ctx =>
    { joinList 0
        (.admin { commandId := ctx.commandId, status := status, aux := aux, value := value,
                  scanState := scanState, pass := pass }) s with
      ax := .posting { ctx with work := .nothing } }
  | _ => s

/-- The command in hand ends; scan state EMPTY and pass number 0 (R183). -/
def complete (status : AdminStatus) (aux : Nat) (value : Int) (s : State) : State :=
  completeWith status aux value .empty 0 s

/-- The command in hand stays in EXECUTING and keeps `work` (R182). -/
def keepWork (work : AxWork) (s : State) : State :=
  match s.ax with
  | .executing ctx => { s with ax := .executing { ctx with work := work } }
  | _ => s

/-- What the command in hand keeps, if the AX is EXECUTING. -/
def State.axWork (s : State) : AxWork :=
  match s.ax with
  | .executing ctx => ctx.work
  | _ => .nothing

/-! ### Releases and cut-offs (R58, R59, R69, R70, R89) -/

/-- A terminal's claim record after slot `i` has let go (R58). -/
def dropClaim (i : Fin 16) : TermClaim → TermClaim
  | .free => .free
  | .drive j => if j = i then .free else .drive j
  | .sense holders =>
    match holders.filter (fun h => h.1 != i) with
    | [] => .free
    | h :: hs => .sense (h :: hs)

/-- The terminals of a need set lose slot `i` (R58). -/
def dropClaims (i : Fin 16) (terms : List (Fin 16 × ClaimKind)) (t : Table TermClaim 16) :
    Table TermClaim 16 :=
  terms.foldl (fun t x => t.put x.1 (dropClaim i (t.look x.1))) t

/-- The connections of a grant open, its source turns off, and the source and terminal claims of
slot `i` are released, which makes an examination due (R50, R58, R59, R69, R71). DESIGN CHOICE: the abort
of a SUPPLY or REF, which holds no terminal and no source, makes one due as well
(notes/assumptions/35). The converter's own claim is the caller's. -/
def releaseFrontEnd (i : Fin 16) (g : Grant) (terms : List (Fin 16 × ClaimKind)) (s : State) :
    State :=
  { s with
    sources := match g.source with
      | some x => s.sources.put x .off
      | none => s.sources
    sourceClaims := match g.source with
      | some x => s.sourceClaims.put x none
      | none => s.sourceClaims
    conns := s.conns.put g.conv ConnSet.rest
    termClaims := dropClaims i terms s.termClaims
    examDue := true }

/-- The terminals of a slot's need set. -/
def SlotRec.terms (r : SlotRec) : List (Fin 16 × ClaimKind) :=
  match r.needSet with
  | some ns => ns.terms
  | none => []

/-- The aperture of the request a converter serves; a start-up check uses AP2 (R99). -/
def servedAperture (s : State) (c : Conv) : Aperture :=
  match (s.convs.look c).serving with
  | .slot i =>
    match s.slots.look i with
    | some r =>
      match r.request with
      | some q => q.apertureV
      | none => .ap2
    | none => .ap2
  | _ => .ap2

/-- COUNTER after a cut: in RUN_UP and RUN_DOWN it stops at an open count below the phase's end
(R89; notes/assumptions/7). -/
def cutCounter (s : State) (c : Conv) : Nat :=
  let r := s.convs.look c
  let a := servedAperture s c
  match r.state with
  | .runUp => Config.cutCount s.freeTick % a.counts
  | .runDown => Config.cutCount s.freeTick % a.limit
  | _ => r.counter

/-- A converter is cut off: it enters RECOVERY for 1 ms, serves nothing, and its claim record holds
RECOVERY (R59, R89, R91). CURRENT RANGE and DEGRADED keep their values. -/
def cutConverter (c : Conv) (s : State) : State :=
  { s with
    convs := s.convs.put c
      { s.convs.look c with
        state := .recovery, phaseTimer := some recoveryTime, serving := .nothing,
        counter := cutCounter s c }
    convClaims := s.convClaims.put c .recovery
    freeTick := s.freeTick + 1 }

/-! ### Aborts (R39 to R42) -/

/-- The converter of a granted slot is cut off and the slot's claims are released; SUM is discarded
(R40, R59). -/
def cutGranted (i : Fin 16) (r : SlotRec) (s : State) : State :=
  let s := s.setSlot i (some { r with sum := 0 })
  match r.grant with
  | some g => releaseFrontEnd i g r.terms (cutConverter g.conv s)
  | none => s

/-- An abort reaches slot `i` (R40); the second part says whether the slot counts as aborted. -/
def abortSlot (d : AbortDetail) (i : Fin 16) (s : State) : State × Bool :=
  match s.slots.look i with
  | none => (s, false)
  | some r =>
    match r.state with
    | .fetching =>
      if r.pendingAbort.isNone then (s.setSlot i (some { r with pendingAbort := some d }), true)
      else (s, false)
    | .waiting =>
      (postSlot i (abortedResult d (carriedLimit s r))
        { s.setSlot i (some { r with blocking := false }) with examDue := true }, true)
    | .settling =>
      (postSlot i (abortedResult d (carriedLimit s r)) (cutGranted i r s), true)
    | .converting =>
      (postSlot i (abortedResult d (carriedLimit s r)) (cutGranted i r s), true)
    | .correcting => (s, false)
    | .fenced =>
      if r.result.isNone then
        (s.setSlot i (some { r with result := some (abortedResult d .unknown) }), true)
      else (s, false)
    | .posting => (s, false)

/-- An abort reaches, in age order, the occupied slots that meet `p` (R39); with the count of slots
aborted. -/
def abortSlots (d : AbortDetail) (p : SlotRec → Bool) (s : State) : State × Nat :=
  s.age.foldl
    (fun acc i =>
      if acc.1.slotMeets p i then
        let r := abortSlot d i acc.1
        (r.1, if r.2 then acc.2 + 1 else acc.2)
      else acc)
    (s, 0)

/-! ### Scans (R143, R147, R153) -/

/-- Whether a scan has a pass in progress (R138). -/
def Scan.inProgress (k : Scan) : Bool := k.nextTemplate < k.count || 0 < k.outstanding

/-- The scan leaves RUNNING or STOPPING: LOADED with its countdown stopped (R138, R142). -/
def Scan.loadedNow (k : Scan) : Scan := { k with state := .loaded, counting := false }

/-- The greatest 32-bit number, at which PASS NUMBER and OVERRUN COUNT stay (R138). -/
def maxCount : Nat := 4294967295

/-- A pass starts (R143). -/
def Scan.startPass (k : Scan) : Scan :=
  { k with
    passNumber := min maxCount (k.passNumber + 1)
    remaining := if k.passLimit = 0 then k.remaining else k.remaining - 1
    countdown := k.period
    counting := true
    nextTemplate := 0 }

/-- A SCAN_DONE record of scan `k` joins its target CQ's list (R147). -/
def joinScanDone (k : Fin 8) (status : ScanDoneStatus) (s : State) : State :=
  let sc := s.scans.look k
  match sc.target with
  | some c =>
    joinList c
      (.scanDone { scan := k, status := status, pass := sc.passNumber, overruns := sc.overruns,
                   remaining := if sc.passLimit = 0 then 0 else sc.remaining }) s
  | none => s

/-- A SCAN_STOP that waits on scan `k` completes (R148, R153). -/
def completeStop (k : Fin 8) (s : State) : State :=
  if s.axWork = .stopping k then
    complete .success (s.scans.look k).overruns (s.scans.look k).passNumber s
  else s

/-- ORPHANED is set in every occupied slot that names scan `k` (R32, R153). -/
def orphanSlots (k : Fin 8) (s : State) : State :=
  { s with
    slots := Table.build fun i =>
      (s.slots.look i).map fun r => if r.fromScan k then { r with orphaned := true } else r }

/-- Scan `k` loses its target CQ `c` while RUNNING or STOPPING (R153). -/
def loseTarget (c : Fin 8) (k : Fin 8) (s : State) : State :=
  let sc := s.scans.look k
  if (sc.state = .running ∨ sc.state = .stopping) ∧ sc.target = some c then
    completeStop k
      (raiseEvent .scanTargetLost k.val c.val
        (orphanSlots k (s.setScan k { sc.loadedNow with nextTemplate := sc.count })))
  else s

/-! ### The write of a calibration entry, cut off (R134) -/

/-- A CAL_WRITE in progress is cut off. A pulse in progress leaves its cells partly programmed: which
of them had moved is open (notes/assumptions/8). -/
def cutWrite (s : State) : State :=
  match s.writeCtx with
  | none => s
  | some w =>
    match w.phase with
    | .pulse =>
      { s with
        writeCtx := none
        cells := s.cells.put w.entry
          { s.cells.look w.entry with
            image := (s.cells.look w.entry).image.pulsed w.image (Config.cutPulse s.freeTick) }
        freeTick := s.freeTick + 1 }
    | _ => { s with writeCtx := none }

/-! ### FAULT, STARTING, HALTING, resets (R196, R198, R200, R201, R202) -/

/-- A scan after FAULT (R155); every slot is FREE, so OUTSTANDING is 0 in every state of the scan
(R144; notes/assumptions/21). -/
def Scan.faulted (k : Scan) : Scan :=
  if k.state = .running ∨ k.state = .stopping then
    { k.loadedNow with nextTemplate := k.count, outstanding := 0 }
  else { k with outstanding := 0 }

/-- The device enters FAULT (R200, R44, R62, R75, R91, R134, R155, R179, R185). -/
def enterFault (code : FaultCode) (s : State) : State :=
  let s := cutConverter .cb (cutConverter .ca (cutWrite s))
  { s with
    device := .fault
    faultCode := code
    intPending := 0
    loading := false
    checks := { ca := .notDue, cb := .notDue }
    sqs := Vector.replicate 8 Sq.gone
    cqs := Vector.replicate 8 Cq.gone
    slots := Vector.replicate 16 none
    age := []
    termClaims := Vector.replicate 16 .free
    sourceClaims := { ex0 := none, ex1 := none }
    conns := { ca := ConnSet.rest, cb := ConnSet.rest }
    sources := { ex0 := .off, ex1 := .off }
    scans := Table.build fun k => (s.scans.look k).faulted
    ax := .idle }

/-- The device enters STARTING, or FAULT when the administrative configuration cannot be used
(R196). -/
def enterStarting (s : State) : State :=
  let s := { s with device := .starting, faultCode := .noFault }
  if s.adminSq.entriesM1 = 0 ∨ s.adminCq.entriesM1 = 0 then enterFault .badAdminConfig s
  else { s with loading := true, checks := { ca := .notDue, cb := .notDue } }

/-- A scan at entry to HALTING: its countdown stops and its pending templates are dropped (R154). -/
def Scan.halted (k : Scan) : Scan :=
  if k.state = .running ∨ k.state = .stopping then
    { k with counting := false, nextTemplate := k.count }
  else k

/-- Whether the HALT abort reaches a slot (R39, R43). -/
def SlotRec.haltReaches (r : SlotRec) : Bool :=
  match r.state with
  | .fetching => true
  | .waiting => true
  | .settling => true
  | .fenced => true
  | _ => false

/-- The device enters HALTING (R198). -/
def enterHalting (s : State) : State :=
  let s :=
    { s with device := .halting, scans := Table.build fun k => (s.scans.look k).halted }
  (abortSlots .halt SlotRec.haltReaches s).1

/-- A soft reset (R201): everything but the cells and the ADMIN registers takes its reset value.
The queue of waiting commands and the counter of free values are the model's own. -/
def softResetState (s : State) : State :=
  let s := cutWrite s
  { State.reset with
    pending := s.pending, cells := s.cells, adminSq := s.adminSq, adminCq := s.adminCq,
    freeTick := s.freeTick }

/-- A power-on reset (R202): as a soft reset, and the ADMIN registers are 0. -/
def powerOnState (held : Bool) (s : State) : State :=
  let s := cutWrite s
  { State.reset with
    pending := s.pending, cells := s.cells, freeTick := s.freeTick, heldInReset := held }

end Sys2Proof.Machine
end

