-- ==== Sys2Proof/Machine/Settle.lean ====
section
/-! DEFINITION. The steps that the manual places within the event that makes their conditions hold
(R28, R36, R99, R145, R169, R181, R190, R197, R199), one operation each, and `settle`, which takes
all that stand after a command's own effect (notes/assumptions/1). -/

namespace Sys2Proof.Machine

/-! ### Fence release (R36) -/

/-- The admission sequence number of a slot of SQ `q`, once its fetch has completed (R25). -/
def SlotRec.seqOn (r : SlotRec) (q : Fin 8) : Option (BitVec 32) :=
  match r.origin with
  | .sq q' _ (some a) => if q' = q then some a.seq else none
  | _ => none

/-- Whether a slot holds an admission of SQ `q` earlier than `n` (R25, R36). -/
def SlotRec.earlierThan (r : SlotRec) (q : Fin 8) (n : BitVec 32) : Bool :=
  match r.seqOn q with
  | some m => seqEarlier m n
  | none => false

/-- Whether slot `i` is a FENCED MARK that no earlier slot of its SQ holds back (R36). -/
def fenceOpen (s : State) (i : Fin 16) : Bool :=
  match s.slots.look i with
  | none => false
  | some r =>
    match r.state, r.origin with
    | .fenced, .sq q _ (some a) => !s.anySlot (fun x => x.earlierThan q a.seq)
    | _, _ => false

/-- A FENCED MARK leaves for POSTING, with the ABORTED it holds or with SUCCESS (R36). -/
def fenceRelease (i : Fin 16) (s : State) : State :=
  if fenceOpen s i then
    match s.slots.look i with
    | some r => postSlot i (r.result.getD markResult) s
    | none => s
  else s

/-- Every fence that opens, in age order. -/
def fenceStage (s : State) : State := s.age.foldl (fun s i => fenceRelease i s) s

/-! ### Pass completion (R145, R148) -/

/-- A pass of scan `k` completes: the last pass of a limited scan ends the run, and a stop ends. -/
def passComplete (k : Fin 8) (s : State) : State :=
  let sc := s.scans.look k
  if sc.inProgress then s
  else
    match sc.state with
    | .running =>
      if s.device ≠ .halting ∧ sc.passLimit ≠ 0 ∧ sc.remaining = 0 then
        joinScanDone k .completed (s.setScan k sc.loadedNow)
      else s
    | .stopping => completeStop k (joinScanDone k .stopped (s.setScan k sc.loadedNow))
    | _ => s

/-- Every pass that is complete. -/
def passStage (s : State) : State := allEight.foldl (fun s k => passComplete k s) s

/-! ### The end of DELETE_SQ (R190) -/

/-- The last slot of the DELETING SQ has returned to FREE: the SQ becomes NONE and the command ends
with the count of aborted slots and the SQ's HEAD. -/
def deleteSqStage (s : State) : State :=
  match s.axWork with
  | .deleting q n =>
    if (s.sqs.look q).state = .deleting ∧ s.anySlot (fun r => r.fromSq q) = false then
      complete .success n (s.sqs.look q).head (s.setSq q Sq.gone)
    else s
  | _ => s

/-! ### Countdown expiry (R145) -/

/-- The countdown of a RUNNING scan has reached 0: a new pass starts, or an overrun is counted and
the countdown reloaded. -/
def expire (k : Fin 8) (s : State) : State :=
  let sc := s.scans.look k
  if s.device = .ready ∧ sc.state = .running ∧ sc.counting ∧ sc.countdown = 0 then
    if sc.inProgress then
      s.setScan k { sc with overruns := min maxCount (sc.overruns + 1), countdown := sc.period }
    else s.setScan k sc.startPass
  else s

/-- Every expiry of a tick. -/
def expiryStage (s : State) : State := allEight.foldl (fun s k => expire k s) s

/-! ### The discard step of halting (R199) -/

/-- Whether a slot holds halting back (R199). -/
def SlotRec.holdsHalt (r : SlotRec) : Bool := r.state != .posting

/-- Whether the AX is IDLE or POSTING (R199). -/
def Ax.atRest : Ax → Bool
  | .idle => true
  | .posting _ => true
  | _ => false

/-- Whether halting has drained (R199). -/
def discardDue (s : State) : Bool :=
  s.device == .halting && s.ax.atRest && !s.anySlot SlotRec.holdsHalt

/-- Everything still to be posted is discarded, every ring becomes NONE, running scans become
LOADED and the device enters OFF, or STARTING at once when ENABLE reads 1 (R178, R199). -/
def discardAll (s : State) : State :=
  let s := allSlots.foldl (fun s i => freeSlot i s) s
  let s :=
    { s with
      sqs := Vector.replicate 8 Sq.gone
      cqs := Vector.replicate 8 Cq.gone
      intPending := 0
      ax := .idle
      scans := Table.build fun k =>
        if (s.scans.look k).state = .running then (s.scans.look k).loadedNow else s.scans.look k
      device := .off }
  if s.enable then enterStarting s else s

/-- The discard step, if it is due. -/
def discardStage (s : State) : State := if discardDue s then discardAll s else s

/-! ### Start-up (R99, R197) -/

/-- A converter begins its start-up REF check: after the load, once it is not in RECOVERY (R99). -/
def startCheck (c : Conv) (s : State) : State :=
  let r := s.convs.look c
  if s.device = .starting ∧ s.checks.look c = .due ∧ r.state = .idle then
    { s with
      checks := s.checks.put c .running
      conns := s.conns.put c
        { plus := .refChannel, minus := .agnd, driveHigh := none, driveLow := none }
      convs := s.convs.put c
        { r with
          state := .settling, serving := .startUp, currentRange := .g0,
          phaseTimer := some (matrixSettle + (if r.currentRange = .g0 then 0 else rangeSettle)) } }
  else s

/-- Both checks that may begin. -/
def checkStage (s : State) : State := startCheck .cb (startCheck .ca s)

/-- SQ0's ring as set up at entry to READY (R163). DESIGN CHOICE: CLASS, IN-FLIGHT LIMIT and ADMISSION
SEQUENCE COUNTER, which R157 gives SQ1-SQ7 alone, stand at 0 (notes/assumptions/36). -/
def adminSqRing (r : AdminReg) : Sq :=
  { state := .active, base := BitVec.ofNat 32 (r.base.toNat * 2 ^ 12),
    size := r.entriesM1.toNat + 1, head := 0, tail := 0, boundCq := 0, cls := 0, limit := 0,
    seq := 0 }

/-- CQ0 as set up at entry to READY (R163, R175). -/
def adminCqRing (r : AdminReg) : Cq :=
  { state := .active, base := BitVec.ofNat 32 (r.base.toNat * 2 ^ 12),
    size := r.entriesM1.toNat + 1, tail := 0, head := 0, phase := true, list := [],
    writing := none, intEnable := true, threshold := 1, timerSetting := 0, unsignalled := 0,
    timer := none }

/-- Entry to READY (R163, R197, R27). -/
def enterReady (s : State) : State :=
  { s with
    device := .ready
    checks := { ca := .notDue, cb := .notDue }
    sqs := s.sqs.put 0 (adminSqRing s.adminSq)
    cqs := s.cqs.put 0 (adminCqRing s.adminCq)
    ax := .idle
    rotation := Vector.replicate 4 14 }

/-- The second start-up check has ended: READY, or OFF when ENABLE is 0 (R197). -/
def startUpStage (s : State) : State :=
  if s.device = .starting ∧ s.checks = { ca := .ended, cb := .ended } then
    if s.enable then enterReady s
    else { s with device := .off, checks := { ca := .notDue, cb := .notDue } }
  else s

/-! ### The slot arbiter (R26 to R29, R32) -/

/-- A source of the slot arbiter: SQ1-SQ7 or scan0-scan7 (R27). -/
inductive Source where
  | sq (q : Fin 8)
  | scan (k : Fin 8)
  deriving DecidableEq, Repr

/-- The sources in the cyclic sequence SQ1 to SQ7, scan0 to scan7 (R27). -/
def sourceAt (n : Fin 15) : Source :=
  if n.val < 7 then .sq (eighth (n.val + 1)) else .scan (eighth (n.val - 7))

/-- Whether SQ `q` is eligible for admission (R26, R37). -/
def sqEligible (s : State) (q : Fin 8) : Bool :=
  let d := s.sqs.look q
  s.device == .ready && d.state == .active && d.head != d.tail
    && !s.anySlot (fun r => r.fromSq q && r.state == .fetching)
    && decide (s.countSlots (fun r => r.fromSq q) < d.limit)
    && !s.anySlot (fun r => r.fromSq q && r.hold)
    && (s.cqs.look d.boundCq).state == .active

/-- Whether scan `k` is eligible for admission (R26, R144). -/
def scanEligible (s : State) (k : Fin 8) : Bool :=
  let d := s.scans.look k
  s.device == .ready && (d.state == .running || d.state == .stopping)
    && decide (d.nextTemplate < d.count)
    && decide (s.countSlots (fun r => r.fromScan k) < d.limit)
    && match d.target with
      | some c => (s.cqs.look c).state == .active
      | none => false

/-- Whether source `n` is eligible (R26). -/
def eligible (s : State) (n : Fin 15) : Bool :=
  match sourceAt n with
  | .sq q => sqEligible s q
  | .scan k => scanEligible s k

/-- The class of source `n` (R27). -/
def sourceClass (s : State) (n : Fin 15) : Fin 4 :=
  match sourceAt n with
  | .sq q => (s.sqs.look q).cls
  | .scan k => (s.scans.look k).cls

/-- The 15 sources that follow the pointer `p` in the cyclic sequence (R27). -/
def sourcesAfter (p : Fin 15) : List (Fin 15) :=
  [1, 2, 3, 4, 5, 6, 7, 8, 9, 10, 11, 12, 13, 14, 15].map fun d =>
    ⟨(p.val + d) % 15, Nat.mod_lt _ (by decide)⟩

/-- The source of class `c` that the arbiter would pick (R27). -/
def pickInClass (s : State) (c : Fin 4) : Option (Fin 15) :=
  (sourcesAfter (s.rotation.look c)).find? fun n => eligible s n && sourceClass s n == c

/-- The class and the source that the arbiter picks: the lowest class that has an eligible source
(R27). -/
def pickSource (s : State) : Option (Fin 4 × Fin 15) :=
  allClasses.findSome? fun c => (pickInClass s c).map fun n => (c, n)

/-- The lowest-numbered FREE slot (R23). -/
def lowestFree (s : State) : Option (Fin 16) := allSlots.find? fun i => (s.slots.look i).isNone

/-- A slot record as an SQ fills it (R21, R29). DESIGN CHOICE: CURRENT RANGE is G0 until the fetch gives
the request, whose starting range R21 asks for (notes/assumptions/23). -/
def fetchingRec (s : State) (q : Fin 8) : SlotRec :=
  let d := s.sqs.look q
  { state := .fetching, origin := .sq q d.head none, targetCq := d.boundCq, cls := d.cls,
    request := none, needSet := none, bypass := 0, blocking := false, grant := none,
    currentRange := .g0, steps := 0, samplesDone := 0, sum := 0, overrangeSeen := none,
    result := none, pendingAbort := none, hold := false, orphaned := false }

/-- A slot record as a scan fills it with template `t` for CQ `c` (R21, R32). -/
def templateRec (k : Fin 8) (d : Scan) (c : Fin 8) (t : Template) : SlotRec :=
  { state := .waiting, origin := .scan k d.nextTemplate d.passNumber, targetCq := c, cls := d.cls,
    request := some t.request, needSet := some t.request.needs, bypass := 0, blocking := false,
    grant := none, currentRange := t.request.startRange, steps := 0, samplesDone := 0, sum := 0,
    overrangeSeen := none, result := none, pendingAbort := none, hold := false, orphaned := false }

/-- Slot `i` is filled from source `n` (R28, R29, R32, R144). A scan whose next template is not in
template memory, which no reachable state has, fills nothing. -/
def fillFrom (i : Fin 16) (n : Fin 15) (s : State) : State :=
  match sourceAt n with
  | .sq q => { s.setSlot i (some (fetchingRec s q)) with age := s.age ++ [i] }
  | .scan k =>
    let d := s.scans.look k
    match d.target, templateOf s k d.nextTemplate with
    | some c, some t =>
      { (s.setSlot i (some (templateRec k d c t))).setScan k
          { d with nextTemplate := d.nextTemplate + 1, outstanding := d.outstanding + 1 } with
        age := s.age ++ [i]
        examDue := true }
    | _, _ => s

/-- One fill, if a FREE slot and an eligible source stand together (R28). -/
def fillOne (s : State) : State :=
  match lowestFree s, pickSource s with
  | some i, some (c, n) => fillFrom i n { s with rotation := s.rotation.put c n }
  | _, _ => s

/-- Up to `n` fills. -/
def fills : Nat → State → State
  | 0, s => s
  | n + 1, s => fills n (fillOne s)

/-- Fills until no FREE slot or no eligible source remains: at most 16, one for each slot (R28). -/
def fillStage (s : State) : State := fills 16 s

/-! ### The AX's fetch and the beginning of a write (R181, R169) -/

/-- The AX starts a fetch, if its conditions hold (R181). -/
def adminFetchStage (s : State) : State :=
  let d := s.sqs.look 0
  if s.ax = .idle ∧ s.device = .ready ∧ d.state = .active ∧ d.head ≠ d.tail then
    { s with ax := .fetching d.head }
  else s

/-- The write of the oldest member's record begins on CQ `c`, if its conditions hold (R169). -/
def beginWrite (c : Fin 8) (s : State) : State :=
  let d := s.cqs.look c
  match d.list, d.writing with
  | m :: _, none =>
    if d.state = .active ∧ nextIndex d.tail d.size ≠ d.head then
      s.setCq c { d with writing := some (memberRecord s m d.phase) }
    else s
  | _, _ => s

/-- Every write that may begin. -/
def writeStage (s : State) : State := allEight.foldl (fun s c => beginWrite c s) s

/-! ### Everything within one event -/

/-- The steps that stand after a command's own effect, within the same event (notes/assumptions/1):
MARK fences, pass completions, the end of DELETE_SQ, countdown expiries, the discard step, the start
of the start-up checks and their end, the fills, the AX's fetch, and the record writes. No later step
of the sequence makes an earlier one stand. -/
def settle (s : State) : State :=
  writeStage (adminFetchStage (fillStage (startUpStage (checkStage (discardStage
    (expiryStage (deleteSqStage (passStage (fenceStage s)))))))))

/-- A command with effect `f`: within one event the effect and then the steps it makes stand. While
the part is held in reset nothing reaches it (R202). -/
def act (f : State → State) (s : State) : Host.Outcome State Fault Refusal :=
  if s.heldInReset then .next s else .next (settle (f s))

end Sys2Proof.Machine
end

