-- ==== Sys2Proof/Machine/Calibration.lean ====
section
/-! DEFINITION. The calibration store: the start-up load, CAL_READ, CAL_WRITE and the phases of a
write (chapter 7). -/

namespace Sys2Proof.Machine

/-- The start-up load of all 16 shadow entries completes, and both checks are called for (R120, R99). -/
def loadDone (s : State) : State :=
  if s.device = .starting ∧ s.loading then
    { s with
      loading := false
      shadows := Table.build fun e => (s.cells.look e).loaded e.val
      checks := { ca := .due, cb := .due } }
  else s

/-- SHADOW_LOAD_DONE (R120). -/
def execShadowLoadDone (s : State) : Host.Outcome State Fault Refusal := act loadDone s

/-- CAL_READ at its execution (R122). -/
def runCalRead (entry : Byte) (addr : Word) (s : State) : State :=
  if 15 < entry.toNat then complete .invalidField 1 0 s
  else
    let e := sixteenth entry.toNat
    let c := s.cells.look e
    keepWork (.calReadDma addr (calRecord c (s.shadows.look e).valid) c.counter) s

/-- The DMA write of CAL_READ ends (R122, R123). -/
def calReadDone (ok : Bool) (s : State) : State :=
  match s.axWork with
  | .calReadDma _ _ generation =>
    if ok then complete .success 0 generation s else complete .busError 0 0 s
  | _ => s

/-- CAL_READ_DMA_DONE (R123). -/
def execCalReadDmaDone (ok : Bool) (s : State) : Host.Outcome State Fault Refusal :=
  act (calReadDone ok) s

/-- The greatest generation count: the worn state (R118). -/
def wornCount : Nat := 65535

/-- The counter of entry `e` is committed, and the write context and the charge phase begin (R127). -/
def commitWrite (e : Fin 16) (budget : Nat) (a b : Word) (s : State) : State :=
  let c := s.cells.look e
  keepWork .calWriting
    { s with
      cells := s.cells.put e { c with counter := c.counter + 1 }
      writeCtx := some
        { entry := e, image := imageOf a b, budget := budget, pulses := 0, phase := .charge } }

/-- CAL_WRITE at its execution: the checks in order, then the commit (R125, R127, R133). -/
def runCalWrite (entry budget : Byte) (expected : BitVec 16) (a b : Word) (guard : Bool) (s : State) :
    State :=
  let n := entry.toNat
  let e := sixteenth n
  let g := (s.cells.look e).counter
  if 15 < n then complete .invalidField 1 0 s
  else if 3 < budget.toNat then complete .invalidField 2 0 s
  else if !wordAInRange n a then complete .invalidField 3 0 s
  else if n ≤ 7 ∧ !gainInRange b then complete .invalidField 4 0 s
  else if expected.toNat ≠ g then complete .staleGeneration g g s
  else if wornCount ≤ g then complete .wearLimit wornCount wornCount s
  else if !guard then complete .supplyLow 0 g s
  else commitWrite e (budgetPulses budget.toNat) a (if n ≤ 7 then b else 0) s

/-- A write ends without proof that its image stands in the cells: the shadow is INVALID at the new
generation (R131, R132). Its words are not used and stay as they stood (notes/assumptions/25). -/
def failWrite (w : WriteCtx) (status : AdminStatus) (aux : Nat) (s : State) : State :=
  let g := (s.cells.look w.entry).counter
  complete status aux g
    { s with
      writeCtx := none
      shadows := s.shadows.put w.entry
        { s.shadows.look w.entry with generation := g, valid := false } }

/-- A write ends in success: the shadow takes the new words, the new generation and VALID (R130). -/
def succeedWrite (w : WriteCtx) (s : State) : State :=
  let g := (s.cells.look w.entry).counter
  complete .success w.pulses g
    { s with
      writeCtx := none
      shadows := s.shadows.put w.entry
        { wordA := w.image.wordA, wordB := w.image.wordB, generation := g, valid := true } }

/-- The guard is sampled before a pulse: HIGH begins it, LOW ends the write (R128, R132). -/
def samplePulse (w : WriteCtx) (guard : Bool) (s : State) : State :=
  if guard then { s with writeCtx := some { w with phase := .pulse } }
  else failWrite w .supplyLow w.pulses s

/-- The charge phase ends (R128). -/
def chargeEnd (guard : Bool) (s : State) : State :=
  match s.writeCtx with
  | some w => if w.phase = .charge then samplePulse w guard s else s
  | none => s

/-- CHARGE_END (R128). -/
def execChargeEnd (guard : Bool) (s : State) : Host.Outcome State Fault Refusal :=
  act (chargeEnd guard) s

/-- A pulse ends: the cells of `moved` stand at the new image, and the verify begins (R128). -/
def pulseEnd (moved : BitVec 80) (s : State) : State :=
  match s.writeCtx with
  | some w =>
    if w.phase = .pulse then
      let c := s.cells.look w.entry
      { s with
        cells := s.cells.put w.entry { c with image := c.image.pulsed w.image moved }
        writeCtx := some { w with pulses := w.pulses + 1, phase := .verify } }
    else s
  | none => s

/-- PULSE_END (R128). -/
def execPulseEnd (moved : BitVec 80) (s : State) : Host.Outcome State Fault Refusal :=
  act (pulseEnd moved) s

/-- A verify ends: success, VERIFY_FAILED, or the guard is sampled for another pulse (R128). -/
def verifyEnd (guard : Bool) (s : State) : State :=
  match s.writeCtx with
  | some w =>
    if w.phase = .verify then
      if (s.cells.look w.entry).image = w.image then succeedWrite w s
      else if w.budget ≤ w.pulses then failWrite w .verifyFailed w.budget s
      else samplePulse w guard s
    else s
  | none => s

/-- VERIFY_END (R128). -/
def execVerifyEnd (guard : Bool) (s : State) : Host.Outcome State Fault Refusal :=
  act (verifyEnd guard) s

end Sys2Proof.Machine
end

