-- ==== Sys2Proof/Machine/Posting.lean ====
section
/-! DEFINITION. The writing of records: the beginning and the ends of a record write, and interrupt
coalescing (chapter 9). -/

namespace Sys2Proof.Machine

/-- WRITE_BEGIN (R169): begun within the event that makes its conditions hold; as a command it takes
the step if it stands. -/
def execWriteBegin (c : Fin 8) (s : State) : Host.Outcome State Fault Refusal := act (beginWrite c) s

/-- The INT_PENDING bit of CQ `c` sets (R175, R176). -/
def setPendingBit (c : Fin 8) (s : State) : State :=
  { s with intPending := s.intPending ||| (1#8 <<< c.val) }

/-- The INT_PENDING bit of CQ `c` clears (R174, R177). -/
def clearPendingBit (c : Fin 8) (s : State) : State :=
  { s with intPending := s.intPending &&& ~~~(1#8 <<< c.val) }

/-- A record written counts toward the interrupt of CQ `c` (R175). -/
def coalesce (c : Fin 8) (s : State) : State :=
  let d := s.cqs.look c
  if d.threshold ≤ d.unsignalled + 1 then
    setPendingBit c (s.setCq c { d with unsignalled := 0, timer := none })
  else
    s.setCq c
      { d with
        unsignalled := d.unsignalled + 1
        timer := if d.timerSetting ≠ 0 ∧ d.timer = none then some d.timerSetting else d.timer }

/-- What the writing of a member's record ends: a slot returns to FREE, and the AX's completion
leaves the AX IDLE (R170, R182). -/
def memberWritten (m : Member) (s : State) : State :=
  match m with
  | .slot i => freeSlot i s
  | .admin _ => { s with ax := .idle }
  | .scanDone _ => s
  | .event _ => s

/-- CQ descriptor `d` after a completed write: TAIL advances, PHASE inverts at the wrap, the oldest
member leaves (R161, R170). -/
def Cq.written (d : Cq) (rest : List Member) : Cq :=
  { d with
    tail := nextIndex d.tail d.size
    phase := if nextIndex d.tail d.size = 0 then !d.phase else d.phase
    list := rest
    writing := none }

/-- The write of a record to CQ `c` completes without a bus error (R170). With no write in progress
the completion is of an abandoned write and is ignored (R174, R178, R179). -/
def writeDone (c : Fin 8) (s : State) : State :=
  let d := s.cqs.look c
  match d.list, d.writing with
  | m :: rest, some _ => coalesce c (memberWritten m (s.setCq c (d.written rest)))
  | _, _ => s

/-- RECORD_WRITE_DONE (R170). -/
def execRecordWriteDone (c : Fin 8) (s : State) : Host.Outcome State Fault Refusal :=
  act (writeDone c) s

/-- The members of a posting list are discarded: slots return to FREE without a record, the others
are dropped (R171, R174). -/
def discardMembers (ms : List Member) (s : State) : State :=
  ms.foldl
    (fun s m => match m with
      | .slot i => freeSlot i s
      | _ => s) s

/-- CQ `c` becomes FAULTED by a write error: events, lost targets, discarded members, coalescing
(R171). -/
def faultCq (c : Fin 8) (s : State) : State :=
  let d := s.cqs.look c
  let s := raiseEvent .cqWriteError c.val d.tail (s.setCq c { d with state := .faulted })
  let s := allEight.foldl (fun s k => loseTarget c k s) s
  let d := s.cqs.look c
  discardMembers d.list
    (s.setCq c { d with list := [], writing := none, unsignalled := 0, timer := none })

/-- The write of a record to CQ `c` ends in a bus error (R171, R172). -/
def writeError (c : Fin 8) (s : State) : State :=
  if (s.cqs.look c).writing.isNone then s
  else if c = 0 then enterFault .adminCqWriteError s
  else faultCq c s

/-- CQ_WRITE_BUS_ERROR (R171). -/
def execCqWriteBusError (c : Fin 8) (s : State) : Host.Outcome State Fault Refusal :=
  act (writeError c) s

/-- The coalescing timer of CQ `c` expires (R176). -/
def timerExpiry (c : Fin 8) (s : State) : State :=
  let d := s.cqs.look c
  if d.timer.isSome then setPendingBit c (s.setCq c { d with unsignalled := 0, timer := none }) else s

/-- COALESCING_TIMER_EXPIRY (R176). -/
def execCoalescingTimerExpiry (c : Fin 8) (s : State) : Host.Outcome State Fault Refusal :=
  act (timerExpiry c) s

end Sys2Proof.Machine
end

