-- ==== Sys2Proof/Machine/ScanCommands.lean ====
section
/-! DEFINITION. The scan scheduler's commands, the timebase, pass completion and countdown expiry
(chapter 8). -/

namespace Sys2Proof.Machine

/-- Whether an occupied slot names scan `k` (R139, R141). -/
def scanHasSlots (s : State) (k : Fin 8) : Bool := s.anySlot fun r => r.fromScan k

/-- The templates of scan `k`. -/
def scanTemplates (s : State) (k : Fin 8) : List Template :=
  (s.templates.drop (s.scans.look k).first).take (s.scans.look k).count

/-- The templates of every scan after scan `k` has taken `new` in place of its own. -/
def replacedTemplates (s : State) (k : Fin 8) (new : List Template) (j : Fin 8) : List Template :=
  if j = k then new else scanTemplates s j

/-- The first place of scan `j` in the repacked memory: behind the templates of the scans below it.
The order is not given (notes/assumptions/20). -/
def repackedFirst (s : State) (k : Fin 8) (new : List Template) (j : Fin 8) : Nat :=
  ((allEight.filter fun i => i.val < j.val).map fun i => (replacedTemplates s k new i).length).sum

/-- Template memory is repacked with `new` as the templates of scan `k` (R136, R140). -/
def repack (k : Fin 8) (new : List Template) (s : State) : State :=
  { s with
    templates := allEight.flatMap (replacedTemplates s k new)
    scans := Table.build fun j =>
      let sc := s.scans.look j
      { sc with first := if j = k ∨ 0 < sc.count then repackedFirst s k new j else sc.first } }

/-- Scan `k` holds `new`, LOADED, or EMPTY when `new` is empty (R140). No template of it is pending
(notes/assumptions/20). -/
def loadScan (k : Fin 8) (new : List Template) (s : State) : State :=
  let s := repack k new s
  let sc := s.scans.look k
  s.setScan k
    { sc with
      state := if new.isEmpty then .empty else .loaded
      first := if new.isEmpty then 0 else sc.first
      count := new.length
      nextTemplate := new.length }

/-- SCAN_LOAD at its execution (R139, R140). -/
def runScanLoad (scan count : Byte) (addr : Word) (s : State) : State :=
  let k := eighth scan.toNat
  let sc := s.scans.look k
  let n := count.toNat
  if 7 < scan.toNat then complete .invalidField 1 0 s
  else if 32 < n then complete .invalidField 2 0 s
  else if ¬(sc.state = .empty ∨ sc.state = .loaded) ∨ scanHasSlots s k then complete .busy 0 0 s
  else if freePlaces s + sc.count < n then complete .invalidField 2 0 s
  else if n = 0 then complete .success 0 0 (loadScan k [] s)
  else keepWork (.scanLoadDma k n addr) s

/-- The DMA read of SCAN_LOAD ends (R140). Images of another number than the command's count are not
of this read. -/
def scanLoadDone (images : Option (List Entry)) (s : State) : State :=
  match s.axWork with
  | .scanLoadDma k n _ =>
    match images with
    | none => complete .busError 0 0 s
    | some es =>
      if es.length = n then
        let ts := es.map entryTemplate
        match firstFailingTemplate 0 ts with
        | some (i, check) => complete .invalidField i check s
        | none => complete .success 0 n (loadScan k ts s)
      else s
  | _ => s

/-- SCAN_LOAD_DMA_DONE (R140). -/
def execScanLoadDmaDone (images : Option (List Entry)) (s : State) :
    Host.Outcome State Fault Refusal := act (scanLoadDone images) s

/-- The LIMIT STATE of every template of scan `k` becomes UNKNOWN (R141). -/
def resetLimits (k : Fin 8) (s : State) : State :=
  let sc := s.scans.look k
  { s with
    templates := s.templates.mapIdx fun i t =>
      if sc.first ≤ i ∧ i < sc.first + sc.count then { t with limitState := .unknown } else t }

/-- A scan record as SCAN_START writes it, with pass 1 started (R141, R143). -/
def Scan.started (sc : Scan) (period passes : Nat) (target : Fin 8) (cls : Fin 4) (limit : Nat) :
    Scan :=
  Scan.startPass
    { sc with
      period := period, passLimit := passes, remaining := passes, target := some target, cls := cls,
      limit := limit, passNumber := 0, overruns := 0, state := .running }

/-- SCAN_START at its execution (R141). -/
def runScanStart (scan : Byte) (period passes : BitVec 16) (target cls limit : Byte) (s : State) :
    State :=
  let k := eighth scan.toNat
  let sc := s.scans.look k
  let c := eighth target.toNat
  if 7 < scan.toNat then complete .invalidField 1 0 s
  else if period.toNat = 0 then complete .invalidField 2 0 s
  else if target.toNat = 0 ∨ 7 < target.toNat then complete .invalidField 4 0 s
  else if 3 < cls.toNat then complete .invalidField 5 0 s
  else if limit.toNat = 0 ∨ 16 < limit.toNat then complete .invalidField 6 0 s
  else if sc.state = .running ∨ sc.state = .stopping ∨ scanHasSlots s k ∨ s.device ≠ .ready then
    complete .busy 0 0 s
  else if sc.state = .empty then complete .invalidField 1 0 s
  else if (s.cqs.look c).state ≠ .active then complete .noSuchQueue 4 0 s
  else
    complete .success 0 0
      ((resetLimits k s).setScan k
        (sc.started period.toNat passes.toNat c (classOf cls.toNat) limit.toNat))

/-- SCAN_STOP at its execution (R148). -/
def runScanStop (scan : Byte) (s : State) : State :=
  let k := eighth scan.toNat
  let sc := s.scans.look k
  if 7 < scan.toNat then complete .invalidField 1 0 s
  else if sc.state = .running then
    if sc.inProgress then
      keepWork (.stopping k) (s.setScan k { sc with state := .stopping, counting := false })
    else
      complete .success sc.overruns sc.passNumber
        (joinScanDone k .stopped (s.setScan k sc.loadedNow))
  else complete .success sc.overruns sc.passNumber s

/-- SCAN_STATUS at its execution (R149). -/
def runScanStatus (scan : Byte) (s : State) : State :=
  let sc := s.scans.look (eighth scan.toNat)
  if 7 < scan.toNat then complete .invalidField 1 0 s
  else
    completeWith .success sc.overruns (if sc.passLimit = 0 then -1 else sc.remaining) sc.state
      sc.passNumber s

/-- PASS_COMPLETION (R145): taken within the event that completes the pass; as a command it takes the
step if it stands. -/
def execPassCompletion (k : Fin 8) (s : State) : Host.Outcome State Fault Refusal :=
  act (passComplete k) s

/-- A scan's countdown at a tick (R142). -/
def Scan.ticked (sc : Scan) : Scan :=
  if sc.counting then { sc with countdown := sc.countdown - 1 } else sc

/-- A tick of the timebase, which runs while the device is READY (R142). The expiries follow within
the event. -/
def tick (s : State) : State :=
  if s.device = .ready then { s with scans := Table.build fun k => (s.scans.look k).ticked } else s

/-- TIMEBASE_TICK (R142). -/
def execTimebaseTick (s : State) : Host.Outcome State Fault Refusal := act tick s

/-- COUNTDOWN_EXPIRY (R145): taken within the tick that brings the countdown to 0; as a command it
takes the step if it stands. -/
def execCountdownExpiry (k : Fin 8) (s : State) : Host.Outcome State Fault Refusal := act (expire k) s

end Sys2Proof.Machine
end

