-- ==== Sys2Proof/Machine/Admin.lean ====
section
/-! DEFINITION. The administrative executor: its fetch, the commands of chapter 10, and one meaning
for each administrative command of the table. -/

namespace Sys2Proof.Machine

/-! ### The commands at their execution -/

/-- IDENTIFY (R186): the identity record is formed and its DMA write starts. -/
def runIdentify (addr : Word) (s : State) : State :=
  keepWork (.identifyDma addr (identityRecord s)) s

/-- The DMA write of IDENTIFY ends (R186). -/
def identifyDone (ok : Bool) (s : State) : State :=
  match s.axWork with
  | .identifyDma _ _ => if ok then complete .success 0 256 s else complete .busError 0 0 s
  | _ => s

/-- Whether a ring of `size` records of `unit` bytes stands aligned within the 32-bit address space
(R187, R189). -/
def ringFits (base : Word) (unit size : Nat) : Bool :=
  base.toNat % unit == 0 && base.toNat + unit * size ≤ 2 ^ 32

/-- A completion ring as CREATE_CQ makes it (R160, R175, R187). -/
def newCq (base : Word) (size : Nat) (intEnable : Bool) (threshold timer : Nat) : Cq :=
  { state := .active, base := base, size := size, tail := 0, head := 0, phase := true, list := [],
    writing := none, intEnable := intEnable, threshold := threshold, timerSetting := timer,
    unsignalled := 0, timer := none }

/-- CREATE_CQ (R187, R184). -/
def runCreateCq (cqId : Byte) (base : Word) (size : BitVec 16) (intEnable : Bool)
    (threshold timer : Byte) (s : State) : State :=
  let c := eighth cqId.toNat
  if cqId.toNat = 0 ∨ 7 < cqId.toNat then complete .invalidField 1 0 s
  else if s.device ≠ .ready then complete .busy 0 0 s
  else if (s.cqs.look c).state ≠ .absent then complete .queueExists 1 0 s
  else if !ringFits base 32 size.toNat then complete .invalidField 2 0 s
  else if size.toNat < 2 ∨ 256 < size.toNat then complete .invalidField 3 0 s
  else if threshold.toNat = 0 ∨ 64 < threshold.toNat then complete .invalidField 5 0 s
  else
    complete .success 0 0
      ((clearPendingBit c s).setCq c
        (newCq base size.toNat intEnable threshold.toNat timer.toNat))

/-- What holds CQ `c` in use: the lowest SQ bound to it, or else 8 + the lowest scan that runs to it
(R188). -/
def cqUser (s : State) (c : Fin 8) : Option Nat :=
  match allEight.find? fun q => (s.sqs.look q).state != .absent && (s.sqs.look q).boundCq == c with
  | some q => some q.val
  | none =>
    (allEight.find? fun k =>
      ((s.scans.look k).state == .running || (s.scans.look k).state == .stopping)
        && (s.scans.look k).target == some c).map fun k => 8 + k.val

/-- DELETE_CQ (R174, R188). -/
def runDeleteCq (cqId : Byte) (s : State) : State :=
  let c := eighth cqId.toNat
  let d := s.cqs.look c
  if cqId.toNat = 0 ∨ 7 < cqId.toNat then complete .invalidField 1 0 s
  else if d.state = .absent then complete .noSuchQueue 1 0 s
  else
    match cqUser s c with
    | some n => complete .inUse n 0 s
    | none =>
      complete .success d.list.length 0
        (discardMembers d.list (clearPendingBit c (s.setCq c Cq.gone)))

/-- CREATE_SQ (R189, R184). -/
def runCreateSq (sqId : Byte) (base : Word) (size : BitVec 16) (boundCq cls limit : Byte)
    (s : State) : State :=
  let q := eighth sqId.toNat
  let c := eighth boundCq.toNat
  if sqId.toNat = 0 ∨ 7 < sqId.toNat then complete .invalidField 1 0 s
  else if s.device ≠ .ready then complete .busy 0 0 s
  else if (s.sqs.look q).state ≠ .absent then complete .queueExists 1 0 s
  else if !ringFits base 64 size.toNat then complete .invalidField 2 0 s
  else if size.toNat < 2 ∨ 256 < size.toNat then complete .invalidField 3 0 s
  else if boundCq.toNat = 0 ∨ 7 < boundCq.toNat then complete .invalidField 4 0 s
  else if 3 < cls.toNat then complete .invalidField 5 0 s
  else if limit.toNat = 0 ∨ 16 < limit.toNat then complete .invalidField 6 0 s
  else if (s.cqs.look c).state ≠ .active then complete .noSuchQueue 4 0 s
  else
    complete .success 0 0
      (s.setSq q
        { state := .active, base := base, size := size.toNat, head := 0, tail := 0, boundCq := c,
          cls := classOf cls.toNat, limit := limit.toNat, seq := 0 })

/-- DELETE_SQ (R190): the SQ enters DELETING and its slots are aborted; the end follows once no slot
of it is occupied. -/
def runDeleteSq (sqId : Byte) (s : State) : State :=
  let q := eighth sqId.toNat
  if sqId.toNat = 0 ∨ 7 < sqId.toNat then complete .invalidField 1 0 s
  else if (s.sqs.look q).state = .absent then complete .noSuchQueue 1 0 s
  else
    let r := abortSlots .queueDeleted (fun r => r.fromSq q)
      (s.setSq q { s.sqs.look q with state := .deleting })
    keepWork (.deleting q r.2) r.1

/-- The slots that ABORT selects: with TAG those that hold the tag, FETCHING slots apart; with ALL
every slot of the SQ (R39, R191). -/
def abortSelects (q : Fin 8) (all : Bool) (tag : BitVec 16) (r : SlotRec) : Bool :=
  match r.origin with
  | .sq q' _ a =>
    q' == q && (all || (r.state != .fetching && match a with
      | some x => x.tag == tag
      | none => false))
  | .scan _ _ _ => false

/-- ABORT (R191). -/
def runAbort (sqId select : Byte) (tag : BitVec 16) (s : State) : State :=
  let q := eighth sqId.toNat
  if sqId.toNat = 0 ∨ 7 < sqId.toNat then complete .invalidField 1 0 s
  else if 1 < select.toNat then complete .invalidField 2 0 s
  else if (s.sqs.look q).state = .absent then complete .noSuchQueue 1 0 s
  else
    let r := abortSlots .abortCmd (abortSelects q (select.toNat == 1) tag) s
    complete .success r.2 0 r.1

/-- A command as the AX enters EXECUTING with it; `guard` is the supply guard at that event (R183). -/
def runCommand (cmd : AdminCmd) (guard : Bool) (s : State) : State :=
  match cmd with
  | .identify addr => runIdentify addr s
  | .createCq cqId base size intEnable threshold timer =>
    runCreateCq cqId base size intEnable threshold timer s
  | .deleteCq cqId => runDeleteCq cqId s
  | .createSq sqId base size boundCq cls limit => runCreateSq sqId base size boundCq cls limit s
  | .deleteSq sqId => runDeleteSq sqId s
  | .abort sqId select tag => runAbort sqId select tag s
  | .calRead entry addr => runCalRead entry addr s
  | .calWrite entry budget expected a b => runCalWrite entry budget expected a b guard s
  | .scanLoad scan count addr => runScanLoad scan count addr s
  | .scanStart scan period passes target cls limit =>
    runScanStart scan period passes target cls limit s
  | .scanStop scan => runScanStop scan s
  | .scanStatus scan => runScanStatus scan s
  | .other _ => complete .invalidOpcode 0 0 s

/-! ### The fetch of the AX (R181) -/

/-- The AX's read completes without a bus error, the entry holding `cmd`: the entry is withdrawn, or
HEAD advances and the command is taken into EXECUTING and carried out within the event (R181). -/
def takeCommand (commandId : BitVec 16) (cmd : AdminCmd) (guard : Bool) (s : State) : State :=
  match s.ax with
  | .fetching index =>
    let d := s.sqs.look 0
    if d.tail = index then { s with ax := .idle }
    else
      runCommand cmd guard
        { s.setSq 0 { d with head := nextIndex index d.size } with
          ax := .executing
            { position := index, commandId := commandId, cmd := cmd, work := .nothing } }
  | _ => s

/-- ADMIN_FETCH_START (R181): begun within the event that makes its conditions hold; as a command it
takes the step if it stands. -/
def execAdminFetchStart (s : State) : Host.Outcome State Fault Refusal := act adminFetchStage s

/-- ADMIN_FETCH_DONE (R181). -/
def execAdminFetchDone (e : Entry) (guard : Bool) (s : State) : Host.Outcome State Fault Refusal :=
  act (takeCommand (entryTag e) (entryAdmin e) guard) s

/-- The AX's read ends in a bus error: the device enters FAULT (R172, R181). -/
def adminFetchError (s : State) : State :=
  match s.ax with
  | .fetching _ => enterFault .adminSqFetchError s
  | _ => s

/-- ADMIN_FETCH_BUS_ERROR (R172). -/
def execAdminFetchBusError (s : State) : Host.Outcome State Fault Refusal := act adminFetchError s

/-! ### One meaning for each administrative command (notes/assumptions/5) -/

/-- IDENTIFY (R186). -/
def execIdentify (commandId : BitVec 16) (addr : Word) (s : State) :
    Host.Outcome State Fault Refusal :=
  act (takeCommand commandId (.identify addr) true) s

/-- CREATE_CQ (R187). -/
def execCreateCq (commandId : BitVec 16) (cqId : Byte) (base : Word) (size : BitVec 16)
    (intEnable : Bool) (threshold timer : Byte) (s : State) : Host.Outcome State Fault Refusal :=
  act (takeCommand commandId (.createCq cqId base size intEnable threshold timer) true) s

/-- DELETE_CQ (R188). -/
def execDeleteCq (commandId : BitVec 16) (cqId : Byte) (s : State) :
    Host.Outcome State Fault Refusal :=
  act (takeCommand commandId (.deleteCq cqId) true) s

/-- CREATE_SQ (R189). -/
def execCreateSq (commandId : BitVec 16) (sqId : Byte) (base : Word) (size : BitVec 16)
    (boundCq cls limit : Byte) (s : State) : Host.Outcome State Fault Refusal :=
  act (takeCommand commandId (.createSq sqId base size boundCq cls limit) true) s

/-- DELETE_SQ (R190). -/
def execDeleteSq (commandId : BitVec 16) (sqId : Byte) (s : State) :
    Host.Outcome State Fault Refusal :=
  act (takeCommand commandId (.deleteSq sqId) true) s

/-- ABORT (R191). -/
def execAbort (commandId : BitVec 16) (sqId select : Byte) (tag : BitVec 16) (s : State) :
    Host.Outcome State Fault Refusal :=
  act (takeCommand commandId (.abort sqId select tag) true) s

/-- CAL_READ (R122). -/
def execCalRead (commandId : BitVec 16) (entry : Byte) (addr : Word) (s : State) :
    Host.Outcome State Fault Refusal :=
  act (takeCommand commandId (.calRead entry addr) true) s

/-- CAL_WRITE (R125). -/
def execCalWrite (commandId : BitVec 16) (entry budget : Byte) (expected : BitVec 16) (a b : Word)
    (guard : Bool) (s : State) : Host.Outcome State Fault Refusal :=
  act (takeCommand commandId (.calWrite entry budget expected a b) guard) s

/-- SCAN_LOAD (R139). -/
def execScanLoad (commandId : BitVec 16) (scan count : Byte) (addr : Word) (s : State) :
    Host.Outcome State Fault Refusal :=
  act (takeCommand commandId (.scanLoad scan count addr) true) s

/-- SCAN_START (R141). -/
def execScanStart (commandId : BitVec 16) (scan : Byte) (period passes : BitVec 16)
    (target cls limit : Byte) (s : State) : Host.Outcome State Fault Refusal :=
  act (takeCommand commandId (.scanStart scan period passes target cls limit) true) s

/-- SCAN_STOP (R148). -/
def execScanStop (commandId : BitVec 16) (scan : Byte) (s : State) :
    Host.Outcome State Fault Refusal :=
  act (takeCommand commandId (.scanStop scan) true) s

/-- SCAN_STATUS (R149). -/
def execScanStatus (commandId : BitVec 16) (scan : Byte) (s : State) :
    Host.Outcome State Fault Refusal :=
  act (takeCommand commandId (.scanStatus scan) true) s

/-- INVALID_OPCODE (R183). An OPCODE that names an admin command is not this event. -/
def execInvalidOpcode (commandId : BitVec 16) (opcode : Byte) (s : State) :
    Host.Outcome State Fault Refusal :=
  act (if namesAdmin opcode then id else takeCommand commandId (.other opcode) true) s

/-- IDENTIFY_DMA_DONE (R186). -/
def execIdentifyDmaDone (ok : Bool) (s : State) : Host.Outcome State Fault Refusal :=
  act (identifyDone ok) s

/-- DELETE_SQ_END (R190): taken within the event that frees the last slot; as a command it takes the
step if it stands. -/
def execDeleteSqEnd (s : State) : Host.Outcome State Fault Refusal := act deleteSqStage s

end Sys2Proof.Machine
end

