-- ==== Sys2Proof/Machine/Admission.lean ====
section
/-! DEFINITION. Admission: the slot arbiter, the completion of a submission ring fetch, and MARK
fences (chapter 2). -/

namespace Sys2Proof.Machine

/-- SLOT_FILL (R28): one fill, if a FREE slot and an eligible source stand together; the fills that
remain follow within the event. -/
def execSlotFill (s : State) : Host.Outcome State Fault Refusal := act fillOne s

/-- A MARK's slot with its numbers, entering FENCED; `res` is its ABORTED, if an abort has reached it
(R30, R36). -/
def fencedRec (r : SlotRec) (origin : Origin) (e : Entry) (res : Option Result) : SlotRec :=
  { r with
    state := .fenced, origin := origin, request := some (entryRequest e), hold := entryFlag e 2,
    result := res }

/-- An entry that is fetched: HEAD and the counter have advanced, and the slot takes its fields and
goes on by a pending abort or by validation (R30, R16). DESIGN CHOICE: the PENDING ABORT that has been
applied stays in the FENCED or POSTING record, where nothing reads it (notes/assumptions/25). -/
def takeEntry (i : Fin 16) (r : SlotRec) (origin : Origin) (e : Entry) (s : State) : State :=
  let req := entryRequest e
  let r := { r with origin := origin, request := some req }
  let isMark := req.opcode == opMark
  match r.pendingAbort with
  | some d =>
    if isMark then s.setSlot i (some (fencedRec r origin e (some (abortedResult d .unknown))))
    else
      postSlot i (abortedResult d .unknown)
        (s.setSlot i (some { r with currentRange := req.startRange }))
  | none =>
    if isMark then s.setSlot i (some (fencedRec r origin e none))
    else
      match failingCheck req with
      | some n => postSlot i (invalidResult n) (s.setSlot i (some { r with currentRange := .g0 }))
      | none =>
        { s.setSlot i
            (some { r with
              state := .waiting, needSet := some req.needs, currentRange := req.startRange }) with
          examDue := true }

/-- The read of FETCHING slot `i` completes without a bus error (R30). -/
def fetchDone (i : Fin 16) (e : Entry) (s : State) : State :=
  match s.slots.look i with
  | none => s
  | some r =>
    match r.state, r.origin with
    | .fetching, .sq q index _ =>
      let d := s.sqs.look q
      if d.tail = index then freeSlot i s
      else
        takeEntry i r (.sq q index (some { tag := entryTag e, seq := d.seq })) e
          (s.setSq q { d with head := nextIndex index d.size, seq := d.seq + 1 })
    | _, _ => s

/-- SQ_FETCH_DONE (R30). -/
def execSqFetchDone (i : Fin 16) (e : Entry) (s : State) : Host.Outcome State Fault Refusal :=
  act (fetchDone i e) s

/-- The read of FETCHING slot `i` ends in a bus error (R31, R167). -/
def fetchError (i : Fin 16) (s : State) : State :=
  match s.slots.look i with
  | none => s
  | some r =>
    match r.state, r.origin with
    | .fetching, .sq q _ _ =>
      let d := s.sqs.look q
      raiseEvent .sqFetchError q.val d.head
        (freeSlot i (s.setSq q { d with state := if d.state = .active then .faulted else d.state }))
    | _, _ => s

/-- SQ_FETCH_BUS_ERROR (R167). -/
def execSqFetchBusError (i : Fin 16) (s : State) : Host.Outcome State Fault Refusal :=
  act (fetchError i) s

/-- FENCE_RELEASE (R36): taken within the event that opens the fence; as a command it takes the step
if it stands. -/
def execFenceRelease (i : Fin 16) (s : State) : Host.Outcome State Fault Refusal :=
  act (fenceRelease i) s

end Sys2Proof.Machine
end

