-- ==== Sys2Proof/Machine/Claims.lean ====
section
/-! DEFINITION. The claim arbiter: examination, grant, bypass and blocking (chapter 3), and what a
grant does to the switch matrix and the converter (R67, R77). -/

namespace Sys2Proof.Machine

/-- Whether a slot is WAITING in class `c`. -/
def SlotRec.waitsInClass (c : Fin 4) (r : SlotRec) : Bool := r.state == .waiting && r.cls == c

/-- The WAITING slots in examination order: by class, and within a class by age (R51). -/
def examOrder (s : State) : List (Fin 16) :=
  allClasses.flatMap fun c => s.age.filter (s.slotMeets (SlotRec.waitsInClass c))

/-- Whether a converter choice takes converter `c` (R48). -/
def ConvChoice.takes (ch : ConvChoice) (c : Conv) : Bool :=
  match ch with
  | .either => true
  | .only c' => c' == c

/-- Whether a source choice takes source `x` (R48). -/
def SourceChoice.takes (ch : SourceChoice) (x : SourceId) : Bool :=
  match ch with
  | .noSource => false
  | .either => true
  | .only x' => x' == x

/-- Whether the reservation of slot `j` binds slot `i` (R56): `j` is blocking, and `i` is not a
blocking slot that stands before it. -/
def binds (s : State) (order : List (Fin 16)) (i j : Fin 16) : Bool :=
  j != i && s.slotMeets (fun r => r.blocking) j
    && !(s.slotMeets (fun r => r.blocking) i && decide (order.idxOf i < order.idxOf j))

/-- The need sets reserved against slot `i` (R56). -/
def reservedAgainst (s : State) (i : Fin 16) : List NeedSet :=
  let order := examOrder s
  (order.filter (binds s order i)).filterMap fun j =>
    match s.slots.look j with
    | some r => r.needSet
    | none => none

/-- Whether terminal `t` can be claimed by converter `c` (R49, conditions 2 and 3). -/
def termFits (claim : TermClaim) (kind : ClaimKind) (c : Conv) : Bool :=
  match kind, claim with
  | _, .free => true
  | .drive, _ => false
  | .sense, .drive _ => false
  | .sense, .sense holders => holders.all fun h => h.2 != c

/-- The sources that a need set may be granted: those of its choice that are free and not reserved
(R49, R54), EX0 first. -/
def grantableSources (s : State) (reserved : List NeedSet) (ns : NeedSet) : List SourceId :=
  [SourceId.ex0, SourceId.ex1].filter fun x =>
    ns.source.takes x && (s.sourceClaims.look x).isNone
      && !reserved.any fun b => b.source.takes x

/-- Whether a need set can be met with converter `c` against these reservations (R49). -/
def canMeet (s : State) (reserved : List NeedSet) (ns : NeedSet) (c : Conv) : Bool :=
  ns.conv.takes c && s.convClaims.look c == .free
    && ns.terms.all (fun x => termFits (s.termClaims.look x.1) x.2 c)
    && (ns.source == .noSource || !(grantableSources s reserved ns).isEmpty)
    && !reserved.any (fun b => b.conv.takes c)
    && ns.terms.all fun x => !reserved.any fun b => b.terms.any fun y => y.1 == x.1

/-- The converter of a grant (R53): with two candidates, CB only when CB alone stands on the
starting range. -/
def chooseConv (s : State) (start : Range) (ca cb : Bool) : Option Conv :=
  match ca, cb with
  | false, false => none
  | true, false => some .ca
  | false, true => some .cb
  | true, true =>
    if s.convs.cb.currentRange = start ∧ s.convs.ca.currentRange ≠ start then some .cb
    else some .ca

/-- What slot `i` would be granted, if its need set can be met (R49, R53, R54). -/
def grantFor (s : State) (i : Fin 16) : Option Grant :=
  match s.slots.look i with
  | none => none
  | some r =>
    match r.needSet with
    | none => none
    | some ns =>
      let reserved := reservedAgainst s i
      (chooseConv s r.currentRange (canMeet s reserved ns .ca) (canMeet s reserved ns .cb)).map
        fun c => { conv := c, source := (grantableSources s reserved ns).head? }

/-- The first slot of examination order whose need set can be met, with its grant (R51). -/
def firstGrant (s : State) : Option (Fin 16 × Grant) :=
  (examOrder s).findSome? fun i => (grantFor s i).map fun g => (i, g)

/-- The greatest bypass count (R55). -/
def bypassLimit : Nat := 8

/-- A WAITING slot that sees another slot granted (R55). -/
def SlotRec.bypassed (r : SlotRec) : SlotRec :=
  if r.state = .waiting ∧ r.bypass < bypassLimit then
    { r with bypass := r.bypass + 1, blocking := r.blocking || r.bypass + 1 == bypassLimit }
  else r

/-- A terminal's claim record after a grant to slot `i` on converter `c` (R52). -/
def addClaim (i : Fin 16) (c : Conv) (kind : ClaimKind) (t : TermClaim) : TermClaim :=
  match kind, t with
  | .drive, _ => .drive i
  | .sense, .sense holders => .sense (holders ++ [(i, c)])
  | .sense, _ => .sense [(i, c)]

/-- The terminals of a need set take slot `i` (R52). -/
def addClaims (i : Fin 16) (c : Conv) (terms : List (Fin 16 × ClaimKind)) (t : Table TermClaim 16) :
    Table TermClaim 16 :=
  terms.foldl (fun t x => t.put x.1 (addClaim i c x.2 (t.look x.1))) t

/-- A slot is granted its whole need set within one event (R52, R55, R67, R71, R73, R77). -/
def grantSlot (i : Fin 16) (g : Grant) (s : State) : State :=
  match s.slots.look i with
  | none => s
  | some r =>
    match r.request with
    | none => s
    | some q =>
      let rec0 := s.convs.look g.conv
      { s with
        slots := Table.build fun j =>
          if j = i then some { r with state := .settling, grant := some g, blocking := false }
          else (s.slots.look j).map SlotRec.bypassed
        convClaims := s.convClaims.put g.conv (.slot i)
        sourceClaims := match g.source with
          | some x => s.sourceClaims.put x (some i)
          | none => s.sourceClaims
        termClaims := addClaims i g.conv r.terms s.termClaims
        conns := s.conns.put g.conv q.connections
        sources := match g.source with
          | some x => s.sources.put x (.on q.levelV i)
          | none => s.sources
        convs := s.convs.put g.conv
          { rec0 with
            state := .settling, serving := .slot i, currentRange := q.startRange,
            phaseTimer := some (q.settleTime rec0.currentRange) } }

/-- Up to `n` grants, each from the front of the order with the table as the last has left it. -/
def grants : Nat → State → State
  | 0, s => s
  | n + 1, s =>
    match firstGrant s with
    | some (i, g) => grants n (grantSlot i g s)
    | none => s

/-- A due examination is taken as one event: at most 16 grants, one for each slot (R50, R51). While
none is due the CL does nothing. -/
def examine (s : State) : State :=
  if s.examDue then grants 16 { s with examDue := false } else s

/-- EXAMINATION (R51). -/
def execExamination (s : State) : Host.Outcome State Fault Refusal := act examine s

end Sys2Proof.Machine
end

