-- ==== Sys2Proof/Machine/Control.lean ====
section
/-! DEFINITION. Device control: resets, CONTROL, the register window, SUBMIT, RELEASE, INT_PENDING,
the end of start-up and the discard step (chapters 9 and 11). -/

namespace Sys2Proof.Machine

/-- POWER_ON_RESET (R202): the part stands reset, and RST_N is released. -/
def execPowerOnReset (s : State) : Host.Outcome State Fault Refusal :=
  .next (powerOnState false s)

/-- RST_N_HELD_LOW (R202): the part stands reset and is held there, taking no register access. -/
def execRstNHeldLow (s : State) : Host.Outcome State Fault Refusal :=
  .next (powerOnState true s)

/-- SOFT_RESET (R201). -/
def execSoftReset (s : State) : Host.Outcome State Fault Refusal := act softResetState s

/-- The steps 2 and 3 of a CONTROL write with RESET 0: INT_ENABLE, then ENABLE and its change by
device state (R195, R196, R198, R200). -/
def writeControl (enable intEnable : Bool) (s : State) : State :=
  let was := s.enable
  let s := { s with enable := enable, intEnable := intEnable }
  match s.device with
  | .off => if enable && !was then enterStarting s else s
  | .ready => if was && !enable then enterHalting s else s
  | .fault => if enable then s else { s with device := .off }
  | .starting => s
  | .halting => s

/-- A write to CONTROL by its value (R195, R205). -/
def writeControlValue (v : Word) (s : State) : State :=
  if v.getLsbD 2 then softResetState s else writeControl (v.getLsbD 0) (v.getLsbD 1) s

/-- ENABLE_ON (R195, R196). -/
def execEnableOn (intEnable : Bool) (s : State) : Host.Outcome State Fault Refusal :=
  act (writeControl true intEnable) s

/-- ENABLE_OFF (R195, R198). -/
def execEnableOff (intEnable : Bool) (s : State) : Host.Outcome State Fault Refusal :=
  act (writeControl false intEnable) s

/-- LEAVE_FAULT (R200). -/
def execLeaveFault (intEnable : Bool) (s : State) : Host.Outcome State Fault Refusal :=
  act (writeControl false intEnable) s

/-- INT_ENABLE_WRITE: a CONTROL write by its whole value (R195). -/
def execIntEnableWrite (v : Word) (s : State) : Host.Outcome State Fault Refusal :=
  act (writeControlValue v) s

/-- Whether SUBMIT and RELEASE are taken (R166). -/
def takesDoorbells (s : State) : Bool := s.device == .ready || s.device == .halting

/-- A write to SUBMIT (R164, R166). -/
def writeSubmit (queue : BitVec 4) (tail : Byte) (s : State) : State :=
  if takesDoorbells s then
    if 7 < queue.toNat then raiseEvent .badSubmit 15 tail.toNat s
    else
      let q := eighth queue.toNat
      let d := s.sqs.look q
      if d.state = .active ∧ tail.toNat < d.size then s.setSq q { d with tail := tail.toNat }
      else raiseEvent .badSubmit q.val tail.toNat s
  else s

/-- Whether a new head lies in the span forward from HEAD to TAIL, both included (R165). -/
def inSpan (d : Cq) (head : Nat) : Bool :=
  decide (head < d.size) && decide (ringDistance d.head head d.size ≤ ringDistance d.head d.tail d.size)

/-- A write to RELEASE (R165, R166). -/
def writeRelease (queue : BitVec 4) (head : Byte) (s : State) : State :=
  if takesDoorbells s then
    if 7 < queue.toNat then raiseEvent .badRelease 15 head.toNat s
    else
      let c := eighth queue.toNat
      let d := s.cqs.look c
      if d.state = .active ∧ inSpan d head.toNat then s.setCq c { d with head := head.toNat }
      else raiseEvent .badRelease c.val head.toNat s
  else s

/-- SUBMIT (R164). -/
def execSubmit (queue : BitVec 4) (tail : Byte) (s : State) : Host.Outcome State Fault Refusal :=
  act (writeSubmit queue tail) s

/-- RELEASE (R165). -/
def execRelease (queue : BitVec 4) (head : Byte) (s : State) : Host.Outcome State Fault Refusal :=
  act (writeRelease queue head) s

/-- A write of ones to INT_PENDING clears those bits (R177). -/
def clearPending (bits : Byte) (s : State) : State :=
  { s with intPending := s.intPending &&& ~~~bits }

/-- INT_PENDING_CLEAR (R177). -/
def execIntPendingClear (bits : Byte) (s : State) : Host.Outcome State Fault Refusal :=
  act (clearPending bits) s

/-- The value of ADMIN_SQ or ADMIN_CQ that a write leaves (R205). -/
def adminRegOf (v : Word) : AdminReg :=
  { base := v.extractLsb' 12 20, entriesM1 := v.extractLsb' 0 6 }

/-- A write to a register of the window (R194, R205). -/
def writeReg (r : Reg) (v : Word) (s : State) : State :=
  match r with
  | .ident => s
  | .control => writeControlValue v s
  | .status => s
  | .adminSq => if s.device = .off then { s with adminSq := adminRegOf v } else s
  | .adminCq => if s.device = .off then { s with adminCq := adminRegOf v } else s
  | .submit => writeSubmit (v.extractLsb' 0 4) (v.extractLsb' 16 8) s
  | .release => writeRelease (v.extractLsb' 0 4) (v.extractLsb' 16 8) s
  | .intPending => clearPending (v.extractLsb' 0 8) s

/-- A write at a byte offset of the window (R194). Between two registers it is no access of theirs
(notes/assumptions/12). -/
def writeWindow (offset : BitVec 5) (v : Word) (s : State) : State :=
  match regAt offset with
  | some r => writeReg r v s
  | none => s

/-- REGISTER_WRITE (R194). -/
def execRegisterWrite (offset : BitVec 5) (v : Word) (s : State) :
    Host.Outcome State Fault Refusal :=
  act (writeWindow offset v) s

/-- START_UP_END (R197): taken within the event that ends the second check; as a command it takes
the step if it stands. -/
def execStartUpEnd (s : State) : Host.Outcome State Fault Refusal := act startUpStage s

/-- DISCARD_STEP (R199): taken within the event that makes it due; as a command it takes the step if
it stands. -/
def execDiscardStep (s : State) : Host.Outcome State Fault Refusal := act discardStage s

end Sys2Proof.Machine
end

