-- ==== Sys2Proof/Machine/Converter.lean ====
section
/-! DEFINITION. The converters: the ends of their phases, the autorange decision, samples, the end of
a request's conversions with its correction, recovery, and the start-up REF checks (chapters 5, 6). -/

namespace Sys2Proof.Machine

/-- Whether the request a converter serves skips autozero; a start-up check does not (R11, R99). -/
def servedNoAutozero (s : State) (c : Conv) : Bool :=
  match (s.convs.look c).serving with
  | .slot i =>
    match s.slots.look i with
    | some r =>
      match r.request with
      | some q => q.noAutozero
      | none => false
    | none => false
  | _ => false

/-- A conversion begins: AUTOZERO, or RUN_UP under NO_AUTOZERO (R74, R83, R87). -/
def ConvRec.beginConversion (r : ConvRec) (noAutozero : Bool) : ConvRec :=
  if noAutozero then { r with state := .runUp, phaseTimer := none, counter := 0 }
  else { r with state := .autozero, phaseTimer := some autozeroTime }

/-- The slot that a converter serves enters CONVERTING (R33, R74). -/
def enterConverting (c : Conv) (s : State) : State :=
  match (s.convs.look c).serving with
  | .slot i =>
    match s.slots.look i with
    | some r => s.setSlot i (some { r with state := .converting })
    | none => s
  | _ => s

/-- The settling phase ends (R74, R77). -/
def settlingEnd (c : Conv) (s : State) : State :=
  let r := s.convs.look c
  if r.state = .settling then
    enterConverting c (s.setConv c (r.beginConversion (servedNoAutozero s c)))
  else s

/-- SETTLING_END (R74). -/
def execSettlingEnd (c : Conv) (s : State) : Host.Outcome State Fault Refusal := act (settlingEnd c) s

/-- The autozero ends: the offset is held and the run-up begins (R78). -/
def autozeroEnd (c : Conv) (offset : Int) (s : State) : State :=
  let r := s.convs.look c
  if r.state = .autozero then
    s.setConv c { r with state := .runUp, phaseTimer := none, counter := 0, heldOffset := offset }
  else s

/-- AUTOZERO_END (R78). -/
def execAutozeroEnd (c : Conv) (offset : Int) (s : State) : Host.Outcome State Fault Refusal :=
  act (autozeroEnd c offset) s

/-- A count with the sign of POLARITY (R80). -/
def signedCount (p : Sign) (n : Nat) : Int :=
  match p with
  | .pos => n
  | .neg => -(n : Int)

/-- The outcomes of the autorange decision (R86). -/
inductive AutoStep where
  | wider
  | narrower
  | final
  deriving DecidableEq, Repr

/-- The greatest number of autorange steps (R86). -/
def stepLimit : Nat := 3

/-- The autorange decision on a conversion of `n` counts on range `g` (R86). -/
def autoDecision (a : Aperture) (g : Range) (steps : Nat) (ovr : Bool) (n : Nat) : AutoStep :=
  if ovr then (if g ≠ .g0 ∧ steps < stepLimit then .wider else .final)
  else if 12 * n < a.counts ∧ g ≠ .g3 ∧ steps < stepLimit then .narrower
  else .final

/-- An autorange step to range `g`: the converter enters RANGING on it (R86, R87). -/
def rangeStep (c : Conv) (i : Fin 16) (r : SlotRec) (g : Range) (s : State) : State :=
  (s.setSlot i (some { r with steps := r.steps + 1, currentRange := g })).setConv c
    { s.convs.look c with state := .ranging, currentRange := g, phaseTimer := some rangeSettle }

/-- The calibration outcome of a request of converter `c` (R102, R103, R109). SUPPLY and REF use the
G0 entry (R106). -/
def correctedOf (s : State) (c : Conv) (r : SlotRec) (q : Request) : Corrected :=
  let m := q.modeV
  let g := if m.isInternal then .g0 else r.currentRange
  let cur := match r.grant with
    | some { source := some x, .. } => s.shadows.look (currentEntry x q.levelV)
    | _ => Shadow.reset
  correctionOutcome m q.raw q.apertureV g r.samplesDone r.sum r.overrangeSeen
    (s.shadows.look (voltageEntry c g)) (s.shadows.look (refEntry c)) cur

/-- A change of the DEGRADED flag by a REF result raises its event (R98). -/
def raiseDegraded (c : Conv) (before after : Bool) (value : Int) (s : State) : State :=
  if before = after then s
  else if after then raiseEvent .converterDegraded (convObject c) value s
  else raiseEvent .converterRestored (convObject c) value s

/-- The CORRECTING entry of slot `i` on converter `c` (R102): the DEGRADED flag and its event for a
REF, then the RESULT with its flags. -/
def correctSlot (i : Fin 16) (c : Conv) (r : SlotRec) (q : Request) (s : State) : State :=
  let o := correctedOf s c r q
  let before := (s.convs.look c).degraded
  let after := if q.modeV = .ref then degradedAfter before q.raw o.status else before
  let flags := stampFlags q.raw q.isAuto after o
  raiseDegraded c before after o.value
    ((s.setConv c { s.convs.look c with degraded := after }).setSlot i
      (some { r with state := .correcting, result := some (o.result flags) }))

/-- The request's conversions end: the converter is IDLE and free, every claim is released, and the
slot enters CORRECTING (R58, R85). -/
def endRequest (c : Conv) (i : Fin 16) (r : SlotRec) (q : Request) (s : State) : State :=
  let s := s.setConv c { s.convs.look c with state := .idle, serving := .nothing, phaseTimer := none }
  let s := { s with convClaims := s.convClaims.put c .free }
  let source := match r.grant with
    | some g => g.source
    | none => none
  correctSlot i c r q (releaseFrontEnd i { conv := c, source := source } r.terms s)

/-- A sample is counted (R83, R84, R88): it may end the request's conversions, or the next sample
begins. -/
def takeSample (c : Conv) (i : Fin 16) (r : SlotRec) (q : Request) (ovr : Bool) (count : Int)
    (s : State) : State :=
  let r := { r with
    samplesDone := r.samplesDone + 1
    sum := r.sum + count
    overrangeSeen := if ovr then some (s.convs.look c).polarity else r.overrangeSeen
    currentRange := (s.convs.look c).currentRange }
  if ovr ∨ r.samplesDone = q.samples.toNat then endRequest c i r q s
  else
    (s.setSlot i (some r)).setConv c ((s.convs.look c).beginConversion q.noAutozero)

/-- A run-down of slot `i` has ended after `n` counts (R82): an autorange conversion while RANGE is
AUTO and no sample stands, and a sample otherwise. -/
def endSlotConversion (c : Conv) (i : Fin 16) (ovr : Bool) (n : Nat) (s : State) : State :=
  match s.slots.look i with
  | none => s
  | some r =>
    match r.request with
    | none => s
    | some q =>
      let g := (s.convs.look c).currentRange
      let count := signedCount (s.convs.look c).polarity n
      if q.isAuto ∧ r.samplesDone = 0 then
        match autoDecision q.apertureV g r.steps ovr n with
        | .wider => rangeStep c i r g.wider s
        | .narrower => rangeStep c i r g.narrower s
        | .final => takeSample c i r q ovr count s
      else takeSample c i r q ovr count s

/-- The start-up REF check of converter `c` ends (R99): G0, AP2, one sample; DEGRADED by the outcome,
no event. -/
def endCheck (c : Conv) (ovr : Bool) (n : Nat) (s : State) : State :=
  let r := s.convs.look c
  let seen := if ovr then some r.polarity else none
  let o := correctionOutcome .ref false .ap2 .g0 1 (signedCount r.polarity n) seen
    (s.shadows.look (voltageEntry c .g0)) (s.shadows.look (refEntry c)) Shadow.reset
  { s with
    convs := s.convs.put c
      { r with
        state := .idle, serving := .nothing, phaseTimer := none,
        degraded := degradedAfter r.degraded false o.status }
    conns := s.conns.put c ConnSet.rest
    checks := s.checks.put c .ended }

/-- The run-down of converter `c` ends after `n` counts (R80, R81). -/
def endConversion (c : Conv) (ovr : Bool) (n : Nat) (s : State) : State :=
  let s := s.setConv c { s.convs.look c with counter := n }
  match (s.convs.look c).serving with
  | .slot i => endSlotConversion c i ovr n s
  | .startUp => endCheck c ovr n s
  | .nothing => s

/-- The run-up reaches N counts (R79): POLARITY is recorded and the run-down begins with COUNTER at 0. An
integrator already at zero ends that run-down at once, with c = 0 (R80): its next phase begins in the same
event. The spec gives a zero integrator no sign, and POLARITY takes the side that the operand names
(notes/assumptions/34). -/
def runUpEnd (c : Conv) (reading : Integrator) (s : State) : State :=
  let r := s.convs.look c
  if r.state = .runUp then
    let t := s.setConv c
      { r with state := .runDown, polarity := if reading.positive then .pos else .neg, counter := 0 }
    if reading.zero then endConversion c false 0 t else t
  else s

/-- RUN_UP_END (R79). -/
def execRunUpEnd (c : Conv) (reading : Integrator) (s : State) : Host.Outcome State Fault Refusal :=
  act (runUpEnd c reading) s

/-- The comparator detects the zero crossing after `counts` counts (R80). A crossing not before 1.25 N
counts is not taken, and the conversion is overrange (R81; notes/assumptions/16). -/
def runDownEnd (c : Conv) (counts : Nat) (s : State) : State :=
  if (s.convs.look c).state = .runDown then
    let limit := (servedAperture s c).limit
    if counts < limit then endConversion c false counts s else endConversion c true limit s
  else s

/-- RUN_DOWN_END (R80). -/
def execRunDownEnd (c : Conv) (counts : Nat) (s : State) : Host.Outcome State Fault Refusal :=
  act (runDownEnd c counts) s

/-- The run-down reaches 1.25 N counts without a crossing (R81). -/
def runDownOverrange (c : Conv) (s : State) : State :=
  if (s.convs.look c).state = .runDown then endConversion c true (servedAperture s c).limit s else s

/-- RUN_DOWN_OVERRANGE (R81). -/
def execRunDownOverrange (c : Conv) (s : State) : Host.Outcome State Fault Refusal :=
  act (runDownOverrange c) s

/-- RANGING ends and the next autorange conversion begins (R87). -/
def rangingEnd (c : Conv) (s : State) : State :=
  let r := s.convs.look c
  if r.state = .ranging then s.setConv c (r.beginConversion (servedNoAutozero s c)) else s

/-- RANGING_END (R87). -/
def execRangingEnd (c : Conv) (s : State) : Host.Outcome State Fault Refusal := act (rangingEnd c) s

/-- A recovery ends: the converter is IDLE and free, and an examination is due (R60, R92). -/
def recoveryEnd (c : Conv) (s : State) : State :=
  let r := s.convs.look c
  if r.state = .recovery then
    { s.setConv c { r with state := .idle, phaseTimer := none } with
      convClaims := s.convClaims.put c .free
      examDue := true }
  else s

/-- RECOVERY_END (R92). -/
def execRecoveryEnd (c : Conv) (s : State) : Host.Outcome State Fault Refusal := act (recoveryEnd c) s

/-- START_UP_REF_CHECK_START (R99): begun within the event that lets it begin; as a command it takes
the step if it stands. -/
def execStartUpRefCheckStart (c : Conv) (s : State) : Host.Outcome State Fault Refusal :=
  act (startCheck c) s

/-! ### The end of correction (R35, R115, R150 to R152) -/

/-- The template's LIMIT STATE is written (R150). -/
def setLimitState (place : Nat) (x : LimitState) (s : State) : State :=
  { s with templates := s.templates.modify place fun t => { t with limitState := x } }

/-- A result of a template with a limit block is classified, or carries its LIMIT STATE unclassified;
without a change it is suppressed under REPORT_CHANGES_ONLY (R150 to R152). -/
def classifySlot (i : Fin 16) (place : Nat) (t : Template) (l : LimitBlock) (res : Result) (s : State) :
    State :=
  let new := if res.status.classified then classify l t.limitState res else t.limitState
  let changed := new != t.limitState
  if l.changesOnly && !changed then freeSlot i s
  else
    postSlot i
      { res with
        limitNew := new, limitPrev := t.limitState, flags := { res.flags with limitChange := changed } }
      (setLimitState place new s)

/-- The event that ends the correction of slot `i` sends it on by its origin (R35, R115). -/
def correctionEnd (i : Fin 16) (s : State) : State :=
  match s.slots.look i with
  | none => s
  | some r =>
    match r.state, r.result with
    | .correcting, some res =>
      match r.origin with
      | .sq _ _ _ => postSlot i res s
      | .scan k index _ =>
        if r.orphaned then postSlot i res s
        else
          match templateOf s k index with
          | some t =>
            match t.limits with
            | some l => classifySlot i ((s.scans.look k).first + index) t l res s
            | none => postSlot i res s
          | none => postSlot i res s
    | _, _ => s

/-- CORRECTION_END (R35). -/
def execCorrectionEnd (i : Fin 16) (s : State) : Host.Outcome State Fault Refusal :=
  act (correctionEnd i) s

end Sys2Proof.Machine
end

