-- ==== Sys2Proof/Machine/Dispatch.lean ====
section
/-! DEFINITION. The meaning of each command of the table: one arm per constructor. -/

namespace Sys2Proof.Machine

def exec (i : Instr) (s : State) : Host.Outcome State Fault Refusal :=
  match i with
  | .powerOnReset => Sys2Proof.Machine.execPowerOnReset s
  | .softReset => Sys2Proof.Machine.execSoftReset s
  | .enableOn intEnable => Sys2Proof.Machine.execEnableOn intEnable s
  | .enableOff intEnable => Sys2Proof.Machine.execEnableOff intEnable s
  | .leaveFault intEnable => Sys2Proof.Machine.execLeaveFault intEnable s
  | .intEnableWrite value => Sys2Proof.Machine.execIntEnableWrite value s
  | .submit queue tail => Sys2Proof.Machine.execSubmit queue tail s
  | .release queue head => Sys2Proof.Machine.execRelease queue head s
  | .intPendingClear bits => Sys2Proof.Machine.execIntPendingClear bits s
  | .registerWrite offset value => Sys2Proof.Machine.execRegisterWrite offset value s
  | .slotFill => Sys2Proof.Machine.execSlotFill s
  | .sqFetchDone slot entry => Sys2Proof.Machine.execSqFetchDone slot entry s
  | .sqFetchBusError slot => Sys2Proof.Machine.execSqFetchBusError slot s
  | .fenceRelease slot => Sys2Proof.Machine.execFenceRelease slot s
  | .examination => Sys2Proof.Machine.execExamination s
  | .settlingEnd c => Sys2Proof.Machine.execSettlingEnd c s
  | .autozeroEnd c offset => Sys2Proof.Machine.execAutozeroEnd c offset s
  | .runUpEnd c reading => Sys2Proof.Machine.execRunUpEnd c reading s
  | .runDownEnd c counts => Sys2Proof.Machine.execRunDownEnd c counts s
  | .runDownOverrange c => Sys2Proof.Machine.execRunDownOverrange c s
  | .rangingEnd c => Sys2Proof.Machine.execRangingEnd c s
  | .recoveryEnd c => Sys2Proof.Machine.execRecoveryEnd c s
  | .correctionEnd slot => Sys2Proof.Machine.execCorrectionEnd slot s
  | .writeBegin cq => Sys2Proof.Machine.execWriteBegin cq s
  | .recordWriteDone cq => Sys2Proof.Machine.execRecordWriteDone cq s
  | .cqWriteBusError cq => Sys2Proof.Machine.execCqWriteBusError cq s
  | .adminFetchStart => Sys2Proof.Machine.execAdminFetchStart s
  | .adminFetchDone entry guard => Sys2Proof.Machine.execAdminFetchDone entry guard s
  | .adminFetchBusError => Sys2Proof.Machine.execAdminFetchBusError s
  | .identify cid addr => Sys2Proof.Machine.execIdentify cid addr s
  | .createCq cid cqId base size intEnable threshold timer => Sys2Proof.Machine.execCreateCq cid cqId base size intEnable threshold timer s
  | .deleteCq cid cqId => Sys2Proof.Machine.execDeleteCq cid cqId s
  | .createSq cid sqId base size boundCq cls limit => Sys2Proof.Machine.execCreateSq cid sqId base size boundCq cls limit s
  | .deleteSq cid sqId => Sys2Proof.Machine.execDeleteSq cid sqId s
  | .abort cid sqId select tag => Sys2Proof.Machine.execAbort cid sqId select tag s
  | .calRead cid entry addr => Sys2Proof.Machine.execCalRead cid entry addr s
  | .calWrite cid entry budget expected wordA wordB guard => Sys2Proof.Machine.execCalWrite cid entry budget expected wordA wordB guard s
  | .scanLoad cid scan count addr => Sys2Proof.Machine.execScanLoad cid scan count addr s
  | .scanStart cid scan period passes target cls limit => Sys2Proof.Machine.execScanStart cid scan period passes target cls limit s
  | .scanStop cid scan => Sys2Proof.Machine.execScanStop cid scan s
  | .scanStatus cid scan => Sys2Proof.Machine.execScanStatus cid scan s
  | .invalidOpcode cid opcode => Sys2Proof.Machine.execInvalidOpcode cid opcode s
  | .identifyDmaDone ok => Sys2Proof.Machine.execIdentifyDmaDone ok s
  | .calReadDmaDone ok => Sys2Proof.Machine.execCalReadDmaDone ok s
  | .scanLoadDmaDone images => Sys2Proof.Machine.execScanLoadDmaDone images s
  | .deleteSqEnd => Sys2Proof.Machine.execDeleteSqEnd s
  | .passCompletion scan => Sys2Proof.Machine.execPassCompletion scan s
  | .timebaseTick => Sys2Proof.Machine.execTimebaseTick s
  | .countdownExpiry scan => Sys2Proof.Machine.execCountdownExpiry scan s
  | .coalescingTimerExpiry cq => Sys2Proof.Machine.execCoalescingTimerExpiry cq s
  | .shadowLoadDone => Sys2Proof.Machine.execShadowLoadDone s
  | .startUpRefCheckStart c => Sys2Proof.Machine.execStartUpRefCheckStart c s
  | .startUpEnd => Sys2Proof.Machine.execStartUpEnd s
  | .discardStep => Sys2Proof.Machine.execDiscardStep s
  | .chargeEnd guard => Sys2Proof.Machine.execChargeEnd guard s
  | .pulseEnd moved => Sys2Proof.Machine.execPulseEnd moved s
  | .verifyEnd guard => Sys2Proof.Machine.execVerifyEnd guard s
  | .rstNHeldLow => Sys2Proof.Machine.execRstNHeldLow s

end Sys2Proof.Machine
end

