-- ==== Sys2Proof/Safety.lean ====
section
/-! DEFINITION. What a safe run keeps: the laws of the device as predicates over states, and the
views of the state in which the statements say what a command leaves as it stood. -/

namespace Sys2Proof.Machine

/-! ### Views -/

/-- The device control block: reset line, device state, fault code, CONTROL, ADMIN registers and the
progress of start-up. -/
def State.control (s : State) :
    Bool × Device × FaultCode × Bool × Bool × AdminReg × AdminReg × Bool × ByConv Check :=
  (s.heldInReset, s.device, s.faultCode, s.enable, s.intEnable, s.adminSq, s.adminCq, s.loading,
    s.checks)

/-- The front end: claim table, switch matrix, sources, converters. -/
def State.frontEnd (s : State) :
    Table TermClaim 16 × BySource (Option (Fin 16)) × ByConv ConvClaim × ByConv ConnSet
      × BySource SourceState × ByConv ConvRec :=
  (s.termClaims, s.sourceClaims, s.convClaims, s.conns, s.sources, s.convs)

/-- The calibration store. -/
def State.store (s : State) : Table Cell 16 × Table Shadow 16 × Option WriteCtx :=
  (s.cells, s.shadows, s.writeCtx)

/-- What stands outside the rings, slots, scans and AX: control, front end, store, templates, INT_PENDING,
the queue of commands and the counter of free values. -/
def State.aside (s : State) :=
  (s.control, s.frontEnd, s.store, s.templates, s.intPending, s.pending, s.freeTick)

/-- Every occupied slot but the slots of `except`, FENCED MARKs apart, stands in `t` as in `s`. -/
def slotsStand (except : List (Fin 16)) (s t : State) : Prop :=
  ∀ i r, i ∉ except → s.slots.look i = some r → r.state ≠ .fenced → t.slots.look i = some r

/-- Completion ring `d'` is `d` with members joined and, if none was in progress, perhaps a write
begun. -/
def cqGrows (d d' : Cq) : Prop :=
  d' = { d with list := d'.list, writing := d'.writing } ∧ d.list <+: d'.list
    ∧ (d.writing.isSome = true → d'.writing = d.writing)

/-- Every completion ring but those of `except` has at most grown. -/
def cqsGrow (except : List (Fin 8)) (s t : State) : Prop :=
  ∀ c, c ∉ except → cqGrows (s.cqs.look c) (t.cqs.look c)

/-- Every submission ring but those of `except`, a DELETING one apart, stands in `t` as in `s`. -/
def sqsStand (except : List (Fin 8)) (s t : State) : Prop :=
  ∀ q, q ∉ except → (s.sqs.look q).state ≠ .deleting → t.sqs.look q = s.sqs.look q

/-- Scan record `sc'` is `sc` but for the steps of its own that can fall within an event (R144, R145): a
scan that is neither RUNNING nor STOPPING stands; one whose countdown has not run out and whose pass is
not complete has at most had `n` more templates admitted; and any other keeps its program and the
fields of its SCAN_START, and stays in its state or becomes LOADED. -/
def scanStands (sc sc' : Scan) : Prop :=
  (sc.state ≠ .running → sc.state ≠ .stopping → sc' = sc)
    ∧ ((sc.counting = true → sc.countdown ≠ 0) →
        (sc.nextTemplate < sc.count ∨ 0 < sc.outstanding
          ∨ sc.state = .running ∧ (sc.passLimit = 0 ∨ sc.remaining ≠ 0)) →
        ∃ n, sc' = { sc with
          nextTemplate := sc.nextTemplate + n, outstanding := sc.outstanding + n })
    ∧ sc' = { sc with
        state := sc'.state, remaining := sc'.remaining, countdown := sc'.countdown,
        counting := sc'.counting, passNumber := sc'.passNumber, nextTemplate := sc'.nextTemplate,
        outstanding := sc'.outstanding, overruns := sc'.overruns }
    ∧ (sc'.state = sc.state ∨ sc'.state = .loaded)

/-- Every scan but those of `except` stands. -/
def scansStand (except : List (Fin 8)) (s t : State) : Prop :=
  ∀ k, k ∉ except → scanStands (s.scans.look k) (t.scans.look k)

/-- Whether the AX is POSTING. -/
def Ax.isPosting : Ax → Bool
  | .posting _ => true
  | _ => false

/-- Some slot holds a halt back whatever fences open: it is neither in POSTING nor a FENCED MARK
(R199). -/
def State.heldBack (s : State) : Prop :=
  ∃ i r, s.slots.look i = some r ∧ r.state ≠ .posting ∧ r.state ≠ .fenced

/-- The device is out of reset and at work, READY or HALTING, and no discard step can fall due within
the event. -/
def State.atWork (s : State) : Prop :=
  s.heldInReset = false ∧ (s.device = .ready ∨ s.device = .halting ∧ s.heldBack)

/-- CQ0 in `t` has taken an occurrence of an event, and has otherwise at most grown (R193). -/
def raised (kind : EventKind) (object : Nat) (value : Int) (s t : State) : Prop :=
  cqGrows ((s.cqs.look 0).withEvent kind object value) (t.cqs.look 0)

/-- The AX holds a fetched entry whose command it may take (R181): the device is at work, the AX is
FETCHING at a position of SQ0 that stands before the tail, and both administrative rings are
ACTIVE. -/
def State.mayTake (s : State) (index : Nat) : Prop :=
  s.atWork ∧ s.ax = .fetching index ∧ (s.sqs.look 0).tail ≠ index ∧ (s.sqs.look 0).state = .active
    ∧ (s.cqs.look 0).state = .active

/-- SQ0's HEAD has advanced past the fetched position, and SQ0 is otherwise unchanged (R181). -/
def headTaken (index : Nat) (s t : State) : Prop :=
  t.sqs.look 0 = { s.sqs.look 0 with head := nextIndex index (s.sqs.look 0).size }

/-- The AX's command has ended: its completion has joined CQ0's list and the AX is POSTING (R182). -/
def answered (d : AdminDone) (s t : State) : Prop :=
  (s.cqs.look 0).list ++ [.admin d] <+: (t.cqs.look 0).list
    ∧ (t.cqs.look 0).state = (s.cqs.look 0).state ∧ t.ax.isPosting = true

/-- The completion of a command (R183): scan state EMPTY and pass number 0. -/
def plainDone (commandId : BitVec 16) (status : AdminStatus) (aux : Nat) (value : Int) : AdminDone :=
  { commandId := commandId, status := status, aux := aux, value := value, scanState := .empty,
    pass := 0 }

/-- Record `x` is one that the slot arbiter has filled within the event: FETCHING at the head of an
ACTIVE, non-empty SQ, or WAITING for a scan that runs, with nothing of an earlier life (R29, R32). -/
def admittedAnew (t : State) (x : SlotRec) : Prop :=
  x.bypass = 0 ∧ x.blocking = false ∧ x.grant = none ∧ x.steps = 0 ∧ x.samplesDone = 0 ∧ x.sum = 0
    ∧ x.overrangeSeen = none ∧ x.result = none ∧ x.pendingAbort = none ∧ x.hold = false
    ∧ x.orphaned = false
    ∧ (x.state = .fetching ∧ x.request = none
        ∧ (∃ q, x.origin = .sq q (t.sqs.look q).head none ∧ (t.sqs.look q).state = .active
          ∧ (t.sqs.look q).head ≠ (t.sqs.look q).tail)
      ∨ x.state = .waiting
        ∧ ∃ k index pass, x.origin = .scan k index pass
          ∧ ((t.scans.look k).state = .running ∨ (t.scans.look k).state = .stopping))

/-- What a scan record keeps (R136 to R143): its places lie in template memory, it is EMPTY exactly
with no template, its countdown runs only while it is RUNNING, and a running scan has a target and a
period; `places` is the number of places taken. -/
def Scan.lawful (places : Nat) (k : Scan) : Prop :=
  (0 < k.count → k.first + k.count ≤ places) ∧ (k.state = .empty ↔ k.count = 0)
    ∧ k.nextTemplate ≤ k.count ∧ (k.counting = true → k.state = .running)
    ∧ (k.state = .running ∨ k.state = .stopping → (∃ c, k.target = some c ∧ c ≠ 0) ∧ 1 ≤ k.period)
    ∧ k.passNumber ≤ maxCount ∧ k.overruns ≤ maxCount

/-- The law of template memory and the scan records (R136, R138, R140): 128 places at most hold the
templates of all scans, and a SCAN_LOAD in hand has room for what it reads. -/
def ScanLaw (s : State) : Prop :=
  s.templates.length = (allEight.map fun k => (s.scans.look k).count).sum
    ∧ s.templates.length ≤ 128 ∧ (∀ k, (s.scans.look k).lawful s.templates.length)
    ∧ ∀ k n addr, s.axWork = .scanLoadDma k n addr →
        ((s.scans.look k).state = .empty ∨ (s.scans.look k).state = .loaded)
          ∧ s.templates.length + n ≤ 128 + (s.scans.look k).count

/-- Age order is that of `s` without the slots that have left it, and `joined`, slots filled within the
event, at its end (R24, R28). -/
def ageJoined (joined : List (Fin 16)) (s t : State) : Prop :=
  ∃ stay, t.age = stay ++ joined ∧ stay.Sublist s.age
    ∧ ∀ i, i ∈ joined → s.slots.look i ≠ t.slots.look i
        ∧ ∃ x, t.slots.look i = some x ∧ admittedAnew t x

/-- Whether a slot's origin names the source. -/
def SlotRec.fromSource (r : SlotRec) : Source → Bool
  | .sq q => r.fromSq q
  | .scan k => r.fromScan k

/-- What is left of age order, the rotation pointers and the due examination is the slot arbiter's: slots
filled within the event join age order at its end, the pointer of a class moves only to the source of
one of them (R27), and an examination becomes due only by a WAITING one (R50). -/
def onlyFilled (s t : State) : Prop :=
  ∃ joined, ageJoined joined s t
    ∧ (t.examDue = true ↔ s.examDue = true
        ∨ ∃ i x, i ∈ joined ∧ t.slots.look i = some x ∧ x.state = .waiting)
    ∧ (ScanLaw s → ∀ c, t.rotation.look c = s.rotation.look c
        ∨ ∃ i x, i ∈ joined ∧ t.slots.look i = some x ∧ x.cls = c
            ∧ x.fromSource (sourceAt (t.rotation.look c)) = true)

/-- A command ended with this completion and changed nothing but SQ0's HEAD, the AX and CQ0's list:
all slots and scans stand, the other rings stand or grow, so does everything aside, and age order, the
rotation pointers and the due examination change by the slot arbiter's fills alone. -/
def onlyAnswered (index : Nat) (d : AdminDone) (s t : State) : Prop :=
  answered d s t ∧ headTaken index s t ∧ t.aside = s.aside ∧ slotsStand [] s t ∧ sqsStand [0] s t
    ∧ cqsGrow [0] s t ∧ scansStand [] s t ∧ onlyFilled s t

/-! ### Slots filled and slots aborted -/

/-- Slot `i` has been freed without a record (R38): it is FREE, or a fill of the same event holds it, and
no list has gained it. -/
def freed (i : Fin 16) (s t : State) : Prop :=
  (∀ x, t.slots.look i = some x → admittedAnew t x)
    ∧ ∀ c, (t.cqs.look c).list.count (.slot i) ≤ (s.cqs.look c).list.count (.slot i)

/-- Slot `i` holds record `x` and stands in its TARGET CQ's list, which has only grown at its end
(R38, R168). -/
def postedAs (i : Fin 16) (x : SlotRec) (s t : State) : Prop :=
  t.slots.look i = some x ∧ Member.slot i ∈ (t.cqs.look x.targetCq).list
    ∧ (s.cqs.look x.targetCq).list <+: (t.cqs.look x.targetCq).list

/-- A slot that enters POSTING joins its TARGET CQ's list, and is not freed (R38). -/
def State.receives (s : State) (r : SlotRec) : Prop :=
  (s.cqs.look r.targetCq).state = .active ∧ r.orphaned = false

/-- The ABORTED result of slot record `r` (R19, R40); a template with a limit block gives its LIMIT
STATE to both limit fields (R150). -/
def abortedWith (d : AbortDetail) (s : State) (r : SlotRec) (res : Result) : Prop :=
  ∃ l, res = { value := 0, status := .aborted, aux := d.code, generation := 0,
               flags := RecFlags.clear, limitNew := l, limitPrev := l }
    ∧ (∀ q position a, r.origin = .sq q position a → l = .unknown)
    ∧ ∀ k index pass x, r.origin = .scan k index pass →
        s.templates[(s.scans.look k).first + index]? = some x →
        l = if x.limits.isSome then x.limitState else .unknown

/-- The front end of grant `g` of slot `i` is cut off: the converter is in RECOVERY for 1 ms and held
by it, its connections are at REST, the source is OFF and free, and no terminal of the need set is
held by the slot (R59, R69, R89). -/
def cutOff (i : Fin 16) (r : SlotRec) (g : Grant) (s t : State) : Prop :=
  (∃ n, t.convs.look g.conv = { s.convs.look g.conv with
      state := .recovery, phaseTimer := some 1000, serving := .nothing, counter := n })
    ∧ t.convClaims.look g.conv = .recovery ∧ t.conns.look g.conv = ConnSet.rest
    ∧ (∀ x, g.source = some x → t.sourceClaims.look x = none ∧ t.sources.look x = .off)
    ∧ (∀ ns term kind, r.needSet = some ns → (term, kind) ∈ ns.terms →
        t.termClaims.look term ≠ .drive i
          ∧ ∀ hs, t.termClaims.look term = .sense hs → ∀ c, (i, c) ∉ hs)
    ∧ t.examDue = true

/-- What an abort with detail `d` makes of slot `i`, which held `r`, by its state (R40). A FENCED MARK
stays FENCED while a slot of its SQ with an earlier number is left (R36). -/
def abortOutcome (d : AbortDetail) (i : Fin 16) (r : SlotRec) (s t : State) : Prop :=
  (r.state = .fetching →
      t.slots.look i = some { r with pendingAbort := some (r.pendingAbort.getD d) })
    ∧ (r.state = .waiting → t.examDue = true
        ∧ (s.receives r → ∃ res, abortedWith d s r res
            ∧ postedAs i { r with state := .posting, blocking := false, result := some res } s t)
        ∧ (¬ s.receives r → freed i s t))
    ∧ (r.state = .settling ∨ r.state = .converting →
        (∀ g, r.grant = some g → cutOff i r g s t)
          ∧ (s.receives r → ∃ res, abortedWith d s r res
              ∧ postedAs i { r with state := .posting, sum := 0, result := some res } s t)
          ∧ (¬ s.receives r → freed i s t))
    ∧ (r.state = .correcting ∨ r.state = .posting → t.slots.look i = some r)
    ∧ (∀ q position a, r.origin = .sq q position a → r.state = .fenced →
        ∃ res, abortedWith d s r res
          ∧ ∀ y, y = { r with result := some (r.result.getD res) } →
              (t.slots.look i = some y
                ∨ s.receives r ∧ postedAs i { y with state := .posting } s t
                ∨ ¬ s.receives r ∧ freed i s t)
              ∧ ∀ n j x, a = some n → t.slots.look j = some x → x.earlierThan q n.seq = true →
                  t.slots.look i = some y)

/-- Whether an abort counts a slot that it reaches (R40). -/
def SlotRec.abortCounts (r : SlotRec) : Bool :=
  match r.state with
  | .fetching => r.pendingAbort.isNone
  | .waiting => true
  | .settling => true
  | .converting => true
  | .correcting => false
  | .fenced => r.result.isNone
  | .posting => false

/-- Every converter that serves no slot of `reached` stands, with its claim and its connections. -/
def otherConvertersStand (reached : SlotRec → Prop) (s t : State) : Prop :=
  ∀ c, (∀ i r g, s.slots.look i = some r → reached r → r.grant = some g → g.conv ≠ c) →
    t.convs.look c = s.convs.look c ∧ t.convClaims.look c = s.convClaims.look c
      ∧ t.conns.look c = s.conns.look c

/-! ### FAULT -/

/-- What FAULT does (R200, R44, R62, R75, R91, R134, R155, R179, R185). -/
def faultEffects (code : FaultCode) (s t : State) : Prop :=
  t.device = .fault ∧ t.faultCode = code ∧ t.loading = false
    ∧ (∀ i, t.slots.look i = none) ∧ t.age = []
    ∧ (∀ q, (t.sqs.look q).state = .absent)
    ∧ (∀ c, (t.cqs.look c).state = .absent ∧ (t.cqs.look c).list = []
        ∧ (t.cqs.look c).writing = none ∧ (t.cqs.look c).timer = none)
    ∧ t.intPending = 0 ∧ t.ax = .idle ∧ t.writeCtx = none
    ∧ (∀ x, t.termClaims.look x = .free)
    ∧ (∀ x, t.sourceClaims.look x = none ∧ t.sources.look x = .off)
    ∧ (∀ c, t.convClaims.look c = .recovery ∧ t.conns.look c = ConnSet.rest
        ∧ (t.convs.look c).state = .recovery ∧ (t.convs.look c).phaseTimer = some recoveryTime
        ∧ (t.convs.look c).serving = .nothing
        ∧ (t.convs.look c).currentRange = (s.convs.look c).currentRange
        ∧ (t.convs.look c).degraded = (s.convs.look c).degraded)
    ∧ (∀ e, (t.cells.look e).counter = (s.cells.look e).counter)
    ∧ (∀ k, (t.scans.look k).outstanding = 0
        ∧ ((s.scans.look k).state = .running ∨ (s.scans.look k).state = .stopping →
            (t.scans.look k).state = .loaded ∧ (t.scans.look k).counting = false
              ∧ (t.scans.look k).nextTemplate = (s.scans.look k).count)
        ∧ (t.scans.look k).count = (s.scans.look k).count
        ∧ (t.scans.look k).passNumber = (s.scans.look k).passNumber
        ∧ (t.scans.look k).overruns = (s.scans.look k).overruns)
    ∧ t.shadows = s.shadows ∧ t.templates = s.templates ∧ t.intEnable = s.intEnable
    ∧ t.adminSq = s.adminSq ∧ t.adminCq = s.adminCq ∧ t.pending = s.pending

/-! ### The laws -/

/-- The law of age order (R24): the list holds each occupied slot once. -/
def AgeLaw (s : State) : Prop := s.age.Nodup ∧ ∀ i, i ∈ s.age ↔ (s.slots.look i).isSome = true

/-- The laws of the slot count (R23): no SQ and no scan holds more slots than its in-flight limit; an
SQ in NONE holds none (R189), and SQ0 is no source of slots (R26). -/
def SlotCountLaw (s : State) : Prop :=
  (∀ q, s.countSlots (fun r => r.fromSq q) ≤ (s.sqs.look q).limit)
    ∧ (∀ q, (s.sqs.look q).state = .absent → s.countSlots (fun r => r.fromSq q) = 0)
    ∧ s.countSlots (fun r => r.fromSq 0) = 0
    ∧ ∀ k, s.countSlots (fun r => r.fromScan k) ≤ (s.scans.look k).limit

/-- OUTSTANDING counts the slots of each scan (R138, R144). -/
def OutstandingLaw (s : State) : Prop :=
  ∀ k, (s.scans.look k).outstanding = s.countSlots (fun r => r.fromScan k)

/-- A terminal's record by R46: no claim, one DRIVE claim, or one or two SENSE claims of different
converters. -/
def TermClaim.lawful : TermClaim → Bool
  | .free => true
  | .drive _ => true
  | .sense [_] => true
  | .sense [a, b] => a.2 != b.2
  | .sense _ => false

/-- The terminals of a need set are distinct (R48). -/
def NeedSet.distinct (ns : NeedSet) : Prop := (ns.terms.map Prod.fst).Nodup

/-- The terminal law (R46), with what keeps it: need sets and templates name distinct terminals
(R48). -/
def TerminalLaw (s : State) : Prop :=
  (∀ t, (s.termClaims.look t).lawful = true)
    ∧ (∀ i r ns, s.slots.look i = some r → r.needSet = some ns → ns.distinct)
    ∧ ∀ t, t ∈ s.templates → t.request.needs.distinct

/-- The holder that a source's state names (R71). -/
def SourceState.holder : SourceState → Option (Fin 16)
  | .off => none
  | .on _ i => some i

/-- The law of single holders (R47, R71, R76): a converter's record holds RECOVERY exactly in
RECOVERY, and a slot exactly while the converter serves it; a source is ON exactly for the slot its
record names. -/
def HolderLaw (s : State) : Prop :=
  (∀ c, (s.convClaims.look c = .recovery ↔ (s.convs.look c).state = .recovery)
    ∧ (∀ i, s.convClaims.look c = .slot i ↔ (s.convs.look c).serving = .slot i)
    ∧ ∀ i, s.convClaims.look c = .slot i → (s.convs.look c).state ≠ .idle)
    ∧ ∀ x, s.sourceClaims.look x = (s.sources.look x).holder

/-- A WAITING slot holds its request and the need set of it (R48). -/
def WaitingLaw (s : State) : Prop :=
  ∀ i r, s.slots.look i = some r → r.state = .waiting →
    ∃ q, r.request = some q ∧ r.needSet = some q.needs

/-- A VALID shadow entry has a generation and words within their ranges (R111, R116, R119). -/
def Shadow.lawful (e : Fin 16) (x : Shadow) : Prop :=
  x.valid = true →
    1 ≤ x.generation ∧ wordAInRange e.val x.wordA = true ∧ wordBInRange e.val x.wordB = true

/-- The law of the calibration store (R116, R118, R119, R124, R127): counters end at 65,535, VALID
shadows are lawful, and a write in progress has committed its counter, has words within their ranges
and their CRC, and has applied no more pulses than its budget. -/
def StoreLaw (s : State) : Prop :=
  (∀ e, (s.cells.look e).counter ≤ wornCount)
    ∧ (∀ e, (s.shadows.look e).lawful e)
    ∧ ∀ w, s.writeCtx = some w →
        1 ≤ (s.cells.look w.entry).counter ∧ wordAInRange w.entry.val w.image.wordA = true
          ∧ wordBInRange w.entry.val w.image.wordB = true ∧ w.image.consistent = true
          ∧ w.pulses ≤ w.budget ∧ (w.phase ≠ .verify → w.pulses < w.budget)

/-- A ring descriptor's indices lie within the ring (R157). -/
def Sq.lawful (d : Sq) : Prop :=
  d.state ≠ .absent → d.head < d.size ∧ d.tail < d.size

/-- The law of the completion ring (R160): the indices lie within the ring, the unsignalled count
below the threshold, and a write is in progress only on an ACTIVE ring with a member, that is not
full. -/
def Cq.lawful (d : Cq) : Prop :=
  (d.state ≠ .absent → d.head < d.size ∧ d.tail < d.size ∧ d.unsignalled < d.threshold)
    ∧ (d.writing.isSome = true →
        d.state = .active ∧ d.list ≠ [] ∧ nextIndex d.tail d.size ≠ d.head)

/-- The laws of the rings. -/
def RingLaw (s : State) : Prop :=
  (∀ q, (s.sqs.look q).lawful) ∧ ∀ c, (s.cqs.look c).lawful

/-- The kind and object of an event member. -/
def Member.eventKey : Member → Option (EventKind × Nat)
  | .event e => some (e.kind, e.object)
  | _ => none

/-- The merging law (R193): CQ0's list never holds two waiting events of the same kind and object. -/
def MergingLaw (s : State) : Prop :=
  ((s.cqs.look 0).waiting.filterMap Member.eventKey).Nodup

/-- Whether a member is an admin completion. -/
def Member.isAdmin : Member → Bool
  | .admin _ => true
  | _ => false

/-- The law of the administrative ring (R182): at most one completion is in the lists, in CQ0's and
only while the AX is POSTING; a STOPPING scan and a write in progress are kept by the command in
hand. -/
def AdminLaw (s : State) : Prop :=
  ((s.cqs.look 0).list.countP Member.isAdmin ≤ if s.ax.isPosting then 1 else 0)
    ∧ (∀ c, c ≠ 0 → (s.cqs.look c).list.countP Member.isAdmin = 0)
    ∧ (∀ k, (s.scans.look k).state = .stopping → s.axWork = .stopping k)
    ∧ (s.writeCtx.isSome = true → s.axWork = .calWriting)

/-- Whether a device state has work in it (chapter 11, the table of device states). -/
def Device.works : Device → Bool
  | .ready => true
  | .halting => true
  | _ => false

/-- The law of the device states (chapter 11): in OFF, STARTING and FAULT no slot is occupied, every
ring is NONE, no scan runs, the AX is IDLE and no INT_PENDING bit is set; the load and the start-up
checks are under way only in STARTING, the checks after the load. -/
def DeviceLaw (s : State) : Prop :=
  (s.device.works = false →
    (∀ i, s.slots.look i = none) ∧ (∀ q, s.sqs.look q = Sq.gone) ∧ (∀ c, s.cqs.look c = Cq.gone)
      ∧ (∀ k, (s.scans.look k).state = .empty ∨ (s.scans.look k).state = .loaded)
      ∧ s.ax = .idle ∧ s.intPending = 0)
    ∧ (s.device ≠ .starting → s.loading = false ∧ s.checks = { ca := .notDue, cb := .notDue })
    ∧ (s.loading = true → s.checks = { ca := .notDue, cb := .notDue })
    ∧ ∀ c, (s.convs.look c).serving = .startUp → s.checks.look c = .running

end Sys2Proof.Machine
end

