-- ==== Sys2Proof/Certificates/Slice0/Obligations.lean ====
section
/-! DEFINITION. The statements of the model for the provers, one proposition each. Each docstring
says what its statement says and what of spec/ it formalises. -/

open Sys2Proof Sys2Proof.Machine

/-- A step with a command at the front of the queue is exec of that command on the state with the
rest of the queue; on an empty queue the part idles (the model's choice, notes/assumptions/6 and
27). (00_scope.md, Conventions, "Events in time") -/
def Obligations.StepTakesTheFront : Prop :=
  ∀ (c : Instr) (rest : List Instr) (s : State),
    (s.pending = c :: rest → step s = exec c { s with pending := rest })
      ∧ (s.pending = [] → step s = .next s)

/-- The laws that the invariant statements keep hold in the state after reset. The cells of that
state are the model's choice (notes/assumptions/9), and so is that every field of a ring in NONE is
0, with an empty list (notes/assumptions/10). (02_the_request_table.md, sections 2.1 and 2.2;
03_claims_on_terminals_sources_and_converters.md, sections 3.1 and 3.2; 07_calibration_store.md,
section 7.3; 08_scan_programs_and_limit_watch.md, sections 8.1 and 8.2;
09_submission_and_completion_queues.md, sections 9.1 and 9.2; 10_administrative_commands.md,
sections 10.1 and 10.7; 11_device_control_and_start_up.md, section 11.2) -/
def Obligations.LawsHoldAtReset : Prop :=
  AgeLaw State.reset ∧ SlotCountLaw State.reset ∧ OutstandingLaw State.reset
    ∧ TerminalLaw State.reset ∧ HolderLaw State.reset ∧ WaitingLaw State.reset
    ∧ StoreLaw State.reset ∧ ScanLaw State.reset ∧ RingLaw State.reset ∧ MergingLaw State.reset
    ∧ AdminLaw State.reset ∧ DeviceLaw State.reset

/-- IDENT, CONTROL, STATUS, ADMIN_SQ, ADMIN_CQ, SUBMIT, RELEASE and INT_PENDING stand at the offsets
0x00 to 0x1C of the window in steps of 4, and read there; while RST_N is low no access is taken.
Each register reads its fields at their bit positions and 0 elsewhere: IDENT is 0x3B114210, RESET,
SUBMIT and RELEASE read 0. A REGISTER_WRITE of CONTROL, SUBMIT, RELEASE or INT_PENDING is the
command of that register with the fields of the value; a CONTROL write is SOFT_RESET by its bit 2,
else ENABLE_ON or ENABLE_OFF by its bit 0; LEAVE_FAULT is a CONTROL write of ENABLE 0. Ignored, with
the outcome of a write to the read-only STATUS, are a write to IDENT, outside OFF a write to
ADMIN_SQ or ADMIN_CQ, and outside READY and HALTING a SUBMIT or RELEASE; and so is a write between
two registers, by the model's choice (notes/assumptions/12). (11_device_control_and_start_up.md,
section 11.1; 12_record_and_register_formats.md, section 12.3;
09_submission_and_completion_queues.md, section 9.4; 11_device_control_and_start_up.md, section
11.6) -/
def Obligations.RegisterWindow : Prop :=
  ∀ (v w : Word) (ie : Bool) (queue : BitVec 4) (index : Byte) (offset : BitVec 5) (s : State),
    (s.heldInReset = false →
      readWindow s 0x00 = some (readReg s .ident) ∧ readWindow s 0x04 = some (readReg s .control)
      ∧ readWindow s 0x08 = some (readReg s .status) ∧ readWindow s 0x0C = some (readReg s .adminSq)
      ∧ readWindow s 0x10 = some (readReg s .adminCq) ∧ readWindow s 0x14 = some (readReg s .submit)
      ∧ readWindow s 0x18 = some (readReg s .release)
      ∧ readWindow s 0x1C = some (readReg s .intPending))
    ∧ (s.heldInReset = true → readWindow s offset = none
        ∧ exec (.registerWrite offset v) s = .next s)
    ∧ (offset.toNat % 4 ≠ 0 → readWindow s offset = none
        ∧ exec (.registerWrite offset v) s = exec (.registerWrite 0x08 w) s)
    ∧ (readReg s .ident = 0x3B114210#32
      ∧ (readReg s .control).getLsbD 0 = s.enable ∧ (readReg s .control).getLsbD 1 = s.intEnable
      ∧ (∀ n, 2 ≤ n → (readReg s .control).getLsbD n = false)
      ∧ (readReg s .status).extractLsb' 0 3 = BitVec.ofNat 3 s.device.code
      ∧ (readReg s .status).extractLsb' 8 4 = BitVec.ofNat 4 s.faultCode.code
      ∧ (∀ n, 3 ≤ n → n < 8 ∨ 12 ≤ n → (readReg s .status).getLsbD n = false)
      ∧ (readReg s .adminSq).extractLsb' 12 20 = s.adminSq.base
      ∧ (readReg s .adminSq).extractLsb' 0 6 = s.adminSq.entriesM1
      ∧ (readReg s .adminSq).extractLsb' 6 6 = 0
      ∧ (readReg s .adminCq).extractLsb' 12 20 = s.adminCq.base
      ∧ (readReg s .adminCq).extractLsb' 0 6 = s.adminCq.entriesM1
      ∧ (readReg s .adminCq).extractLsb' 6 6 = 0
      ∧ readReg s .submit = 0 ∧ readReg s .release = 0
      ∧ ∀ n, (readReg s .intPending).getLsbD n = s.intPending.getLsbD n)
    ∧ exec (.registerWrite 0x04 v) s = exec (.intEnableWrite v) s
    ∧ (v.getLsbD 2 = true → exec (.intEnableWrite v) s = exec .softReset s)
    ∧ (v.getLsbD 2 = false → v.getLsbD 0 = true →
        exec (.intEnableWrite v) s = exec (.enableOn (v.getLsbD 1)) s)
    ∧ (v.getLsbD 2 = false → v.getLsbD 0 = false →
        exec (.intEnableWrite v) s = exec (.enableOff (v.getLsbD 1)) s)
    ∧ exec (.leaveFault ie) s = exec (.enableOff ie) s
    ∧ exec (.registerWrite 0x14 v) s = exec (.submit (v.extractLsb' 0 4) (v.extractLsb' 16 8)) s
    ∧ exec (.registerWrite 0x18 v) s
        = exec (.release (v.extractLsb' 0 4) (v.extractLsb' 16 8)) s
    ∧ exec (.registerWrite 0x1C v) s = exec (.intPendingClear (v.extractLsb' 0 8)) s
    ∧ exec (.registerWrite 0x00 v) s = exec (.registerWrite 0x08 w) s
    ∧ (s.device ≠ .off →
        exec (.registerWrite 0x0C v) s = exec (.registerWrite 0x08 w) s
          ∧ exec (.registerWrite 0x10 v) s = exec (.registerWrite 0x08 w) s)
    ∧ (s.device.works = false →
        exec (.submit queue index) s = exec (.registerWrite 0x08 w) s
          ∧ exec (.release queue index) s = exec (.registerWrite 0x08 w) s)

/-- In OFF, a write to ADMIN_SQ or ADMIN_CQ gives that register the BASE and ENTRIES_M1 of the value
and changes nothing else; a write to IDENT or STATUS, a SUBMIT or a RELEASE changes nothing. In
FAULT, LEAVE_FAULT sets ENABLE 0 and INT_ENABLE as written and enters OFF, and changes nothing else:
the fault code stays. (11_device_control_and_start_up.md, sections 11.1 and 11.5) -/
def Obligations.WritesAtRest : Prop :=
  ∀ (v : Word) (ie : Bool) (queue : BitVec 4) (index : Byte) (s : State), s.heldInReset = false →
      DeviceLaw s →
    (s.device = .off →
      exec (.registerWrite 0x0C v) s
          = .next { s with adminSq := { base := v.extractLsb' 12 20, entriesM1 := v.extractLsb' 0 6 } }
        ∧ exec (.registerWrite 0x10 v) s
          = .next { s with adminCq := { base := v.extractLsb' 12 20, entriesM1 := v.extractLsb' 0 6 } }
        ∧ exec (.registerWrite 0x00 v) s = .next s ∧ exec (.registerWrite 0x08 v) s = .next s
        ∧ exec (.submit queue index) s = .next s ∧ exec (.release queue index) s = .next s)
    ∧ (s.device = .fault →
      exec (.leaveFault ie) s = .next { s with enable := false, intEnable := ie, device := .off })

/-- At work, a CONTROL write with RESET 0 and ENABLE at its old value sets INT_ENABLE alone;
INT_PENDING_CLEAR clears the bits written 1 and leaves the others; the expiry of a running
coalescing timer sets its ring's bit and no other, makes the unsignalled count 0 and stops the
timer. INT_N is asserted exactly when INT_ENABLE is 1 and a bit is set whose CQ has INT ENABLE set.
All else aside, slots, scans and rings stand. (11_device_control_and_start_up.md, section 11.1;
09_submission_and_completion_queues.md, section 9.8) -/
def Obligations.InterruptBits : Prop :=
  ∀ (v : Word) (bits : Byte) (c : Fin 8) (s : State), s.atWork →
    (intAsserted s = true ↔ s.intEnable = true
        ∧ ∃ d, s.intPending.getLsbD d.val = true ∧ (s.cqs.look d).intEnable = true)
    ∧ (v.getLsbD 2 = false → v.getLsbD 0 = s.enable →
      ∃ t, exec (.intEnableWrite v) s = .next t
        ∧ t.aside = { s with intEnable := v.getLsbD 1 }.aside
        ∧ slotsStand [] s t ∧ scansStand [] s t ∧ sqsStand [] s t ∧ cqsGrow [] s t
        ∧ (intAsserted t = true ↔ v.getLsbD 1 = true
            ∧ ∃ d, s.intPending.getLsbD d.val = true ∧ (s.cqs.look d).intEnable = true))
    ∧ (∃ t, exec (.intPendingClear bits) s = .next t
        ∧ t.aside = { s with intPending := t.intPending }.aside
        ∧ (∀ n, n < 8 → t.intPending.getLsbD n = (s.intPending.getLsbD n && !bits.getLsbD n))
        ∧ slotsStand [] s t ∧ scansStand [] s t ∧ sqsStand [] s t ∧ cqsGrow [] s t)
    ∧ ((s.cqs.look c).timer.isSome = true →
      ∃ t, exec (.coalescingTimerExpiry c) s = .next t
        ∧ t.aside = { s with intPending := t.intPending }.aside
        ∧ (∀ n, n < 8 → t.intPending.getLsbD n = (s.intPending.getLsbD n || decide (n = c.val)))
        ∧ cqGrows { s.cqs.look c with unsignalled := 0, timer := none } (t.cqs.look c)
        ∧ cqsGrow [c] s t ∧ slotsStand [] s t ∧ scansStand [] s t ∧ sqsStand [] s t)

/-- The release of RST_N leaves the part as State.reset but for the nonvolatile cells; RST_N held
low leaves the same and holds the part; a soft reset, in every device state, leaves the same with
ADMIN_SQ and ADMIN_CQ kept. Every counter cell keeps its count, and every entry keeps its cells but
one whose program pulse was cut, which the model leaves open (notes/assumptions/8). Of the model:
the fields of a ring in NONE are 0 (notes/assumptions/10), and while RST_N is low no command but the
pin's two acts (notes/assumptions/13). (11_device_control_and_start_up.md, sections 11.1 and 11.6;
07_calibration_store.md, sections 7.2 and 7.8) -/
def Obligations.ResetsLeave : Prop :=
  ∀ s : State, ∃ cells freeTick,
    exec .powerOnReset s
        = .next { State.reset with pending := s.pending, cells := cells, freeTick := freeTick }
      ∧ exec .rstNHeldLow s
        = .next { State.reset with
            pending := s.pending, cells := cells, freeTick := freeTick, heldInReset := true }
      ∧ (s.heldInReset = false →
        exec .softReset s
          = .next { State.reset with
              pending := s.pending, cells := cells, freeTick := freeTick, adminSq := s.adminSq,
              adminCq := s.adminCq })
      ∧ (∀ c : Instr, s.heldInReset = true → c ≠ .powerOnReset → c ≠ .rstNHeldLow →
          exec c s = .next s)
      ∧ (∀ e, (cells.look e).counter = (s.cells.look e).counter)
      ∧ (∀ e, (∀ w, s.writeCtx = some w → w.phase = .pulse → w.entry ≠ e) →
          cells.look e = s.cells.look e)

/-- In OFF with ENABLE 0, ENABLE_ON enters STARTING with FAULT_CODE 0 and the shadow load begun, and
changes nothing else, when both ENTRIES_M1 fields are 1 or more. With a field of 0 the device enters
FAULT with BAD_ADMIN_CONFIG in the same event, ENABLE reading 1, with the effects of FAULT. That
OUTSTANDING is 0 afterwards for a LOADED scan too is the model's reading (notes/assumptions/21).
(11_device_control_and_start_up.md, sections 11.3 and 11.5; 02_the_request_table.md, section 2.9;
03_claims_on_terminals_sources_and_converters.md, section 3.7; 05_integrating_converters.md, section
5.6; 08_scan_programs_and_limit_watch.md, section 8.10; 09_submission_and_completion_queues.md,
section 9.9) -/
def Obligations.EnableStartsUp : Prop :=
  ∀ (ie : Bool) (s : State), s.heldInReset = false → s.device = .off → s.enable = false →
      DeviceLaw s →
    (s.adminSq.entriesM1 ≠ 0 → s.adminCq.entriesM1 ≠ 0 →
      exec (.enableOn ie) s
        = .next { s with
            device := .starting, faultCode := .noFault, enable := true, intEnable := ie,
            loading := true })
    ∧ (s.adminSq.entriesM1 = 0 ∨ s.adminCq.entriesM1 = 0 →
        ∃ t, exec (.enableOn ie) s = .next t
          ∧ faultEffects .badAdminConfig { s with intEnable := ie } t ∧ t.enable = true)

/-- In READY, ENABLE_OFF aborts with detail HALT: a FETCHING slot records it; while the device stays
HALTING, a WAITING or SETTLING slot is POSTING with ABORTED in the list of its ACTIVE target CQ, or
freed without a record if that CQ is not ACTIVE or the slot ORPHANED, and a FENCED MARK takes
ABORTED unless it holds it, to leave only as its fence opens. CONVERTING, CORRECTING and POSTING
slots stand, and the device is HALTING while a FETCHING, CONVERTING or CORRECTING slot remains. The
converter of a SETTLING slot is cut off, every other one stands; every running countdown stops and
pending templates are dropped. The store, the templates and the fault code are unchanged. SUM 0
after a cut is the model's choice (notes/assumptions/25). That the cut of a SUPPLY or REF slot,
which releases no terminal and no source, makes an examination due as well is the model's choice
(notes/assumptions/35). (11_device_control_and_start_up.md, section 11.4; 02_the_request_table.md,
sections 2.7, 2.8 and 2.9; 03_claims_on_terminals_sources_and_converters.md, section 3.5;
05_integrating_converters.md, section 5.6; 08_scan_programs_and_limit_watch.md, sections 8.8 and
8.10) -/
def Obligations.EnableOffBeginsHalting : Prop :=
  ∀ (ie : Bool) (s : State), s.heldInReset = false → s.device = .ready → s.enable = true →
      AgeLaw s →
    ∃ t, exec (.enableOff ie) s = .next t
      ∧ t.enable = false ∧ t.intEnable = ie ∧ (t.device = .halting ∨ t.device = .off)
      ∧ (∀ i r, s.slots.look i = some r → r.state = .converting ∨ r.state = .correcting →
          t.device = .halting ∧ t.slots.look i = some r)
      ∧ (∀ i r, s.slots.look i = some r → r.state = .fetching →
          t.device = .halting
            ∧ t.slots.look i = some { r with pendingAbort := some (r.pendingAbort.getD .halt) })
      ∧ (t.device = .halting → cqsGrow [] s t
          ∧ ∀ i r, s.slots.look i = some r → r.state ≠ .converting → abortOutcome .halt i r s t)
      ∧ (∀ i r, t.slots.look i = some r → r.state ≠ .waiting ∧ r.state ≠ .settling)
      ∧ (∀ i r g, s.slots.look i = some r → r.state = .settling → r.grant = some g →
          t.convClaims.look g.conv = .recovery ∧ (t.convs.look g.conv).state = .recovery
            ∧ t.conns.look g.conv = ConnSet.rest)
      ∧ otherConvertersStand (fun r => r.state = .settling) s t
      ∧ (∀ k, (s.scans.look k).state = .running ∨ (s.scans.look k).state = .stopping →
          (t.scans.look k).counting = false
            ∧ (t.scans.look k).nextTemplate = (s.scans.look k).count)
      ∧ t.store = s.store ∧ t.templates = s.templates ∧ t.faultCode = s.faultCode

/-- At the end of the load every shadow has the cells' words and the counter as its generation, and
is VALID exactly when the image is consistent, the counter is not 0 and both words lie within the
ranges of the entry. Within it, or by START_UP_REF_CHECK_START once it is IDLE, each converter
begins its REF check: reference channel and AGND closed, G0, 200 µs of settling, 500 µs more from
another range. A converter that is not IDLE waits. Cells, claims, slots and templates stand.
(07_calibration_store.md, section 7.4; 05_integrating_converters.md, section 5.9;
07_calibration_store.md, section 7.1) -/
def Obligations.StartUpChecks : Prop :=
  ∀ s : State, s.heldInReset = false → s.device = .starting → DeviceLaw s →
    (s.loading = true →
      ∃ t, exec .shadowLoadDone s = .next t
        ∧ t.device = .starting ∧ t.loading = false ∧ t.cells = s.cells ∧ t.writeCtx = s.writeCtx
        ∧ (∀ e, (t.shadows.look e).wordA = (s.cells.look e).image.wordA
            ∧ (t.shadows.look e).wordB = (s.cells.look e).image.wordB
            ∧ (t.shadows.look e).generation = (s.cells.look e).counter
            ∧ ((t.shadows.look e).valid = true ↔
                (s.cells.look e).image.crc
                    = crcOf (s.cells.look e).image.wordA (s.cells.look e).image.wordB
                  ∧ (s.cells.look e).counter ≠ 0
                  ∧ (e.val ≤ 7 → -1000000 ≤ (s.cells.look e).image.wordA.toInt
                    ∧ (s.cells.look e).image.wordA.toInt ≤ 1000000
                    ∧ 536870912 ≤ (s.cells.look e).image.wordB.toNat
                    ∧ (s.cells.look e).image.wordB.toNat ≤ 2147483647)
                  ∧ (8 ≤ e.val → (s.cells.look e).image.wordB = 0)
                  ∧ (14 ≤ e.val → -12500000 ≤ (s.cells.look e).image.wordA.toInt
                    ∧ (s.cells.look e).image.wordA.toInt ≤ 12500000)))
        ∧ (∀ c, (s.convs.look c).state = .idle →
            t.checks.look c = .running
              ∧ t.convs.look c = { s.convs.look c with
                  state := .settling, serving := .startUp, currentRange := .g0,
                  phaseTimer := some (if (s.convs.look c).currentRange = .g0 then 200 else 700) }
              ∧ t.conns.look c
                = { plus := .refChannel, minus := .agnd, driveHigh := none, driveLow := none })
        ∧ (∀ c, (s.convs.look c).state ≠ .idle →
            t.checks.look c = .due ∧ t.convs.look c = s.convs.look c
              ∧ t.conns.look c = s.conns.look c)
        ∧ t.slots = s.slots ∧ t.templates = s.templates ∧ t.convClaims = s.convClaims)
    ∧ ∀ c, s.checks.look c = .due → (s.convs.look c).state = .idle →
      ∃ t, exec (.startUpRefCheckStart c) s = .next t
        ∧ t.device = .starting ∧ t.checks.look c = .running
        ∧ t.convs.look c = { s.convs.look c with
            state := .settling, serving := .startUp, currentRange := .g0,
            phaseTimer := some (if (s.convs.look c).currentRange = .g0 then 200 else 700) }
        ∧ t.conns.look c
          = { plus := .refChannel, minus := .agnd, driveHigh := none, driveLow := none }
        ∧ t.convClaims = s.convClaims ∧ t.termClaims = s.termClaims ∧ t.slots = s.slots
        ∧ t.store = s.store ∧ t.templates = s.templates

/-- In STARTING with both checks ended, START_UP_END with ENABLE 1 enters READY, sets SQ0 and CQ0 up
from the ADMIN registers with their indices 0, PHASE 1 and CQ0's fixed interrupt settings, and
points every rotation pointer at scan7; with ENABLE 0 it enters OFF. Nothing else changes. That
SQ0's CLASS, IN-FLIGHT LIMIT and ADMISSION SEQUENCE COUNTER, which the manual gives SQ1-SQ7 alone,
stand at 0 is the model's choice (notes/assumptions/36). (11_device_control_and_start_up.md, section
11.3; 09_submission_and_completion_queues.md, section 9.3; 02_the_request_table.md, section 2.3) -/
def Obligations.StartUpEndEntersReady : Prop :=
  ∀ s : State, s.heldInReset = false → s.device = .starting → DeviceLaw s →
      s.checks = { ca := .ended, cb := .ended } →
    (s.enable = true →
      exec .startUpEnd s = .next { s with
        device := .ready
        checks := { ca := .notDue, cb := .notDue }
        sqs := s.sqs.put 0
          { state := .active, base := BitVec.ofNat 32 (s.adminSq.base.toNat * 4096),
            size := s.adminSq.entriesM1.toNat + 1, head := 0, tail := 0, boundCq := 0, cls := 0,
            limit := 0, seq := 0 }
        cqs := s.cqs.put 0
          { state := .active, base := BitVec.ofNat 32 (s.adminCq.base.toNat * 4096),
            size := s.adminCq.entriesM1.toNat + 1, tail := 0, head := 0, phase := true, list := [],
            writing := none, intEnable := true, threshold := 1, timerSetting := 0, unsignalled := 0,
            timer := none }
        rotation := Vector.replicate 4 14 })
    ∧ (s.enable = false →
        exec .startUpEnd s
          = .next { s with device := .off, checks := { ca := .notDue, cb := .notDue } })

/-- In HALTING, once no slot is outside POSTING and the AX is IDLE or POSTING, the discard step
frees every slot without a record, makes every ring NONE, clears INT_PENDING, makes RUNNING scans
LOADED and enters OFF, or STARTING at once when ENABLE reads 1. Front end, store, templates and
fault code stand in OFF. (11_device_control_and_start_up.md, section 11.4;
09_submission_and_completion_queues.md, section 9.9) -/
def Obligations.DiscardStepEndsHalting : Prop :=
  ∀ s : State, s.heldInReset = false → s.device = .halting → s.ax.atRest = true →
      (∀ i r, s.slots.look i = some r → r.state = .posting) →
    ∃ t, exec .discardStep s = .next t
      ∧ (∀ i, t.slots.look i = none) ∧ (∀ q, (t.sqs.look q).state = .absent)
      ∧ (∀ c, (t.cqs.look c).state = .absent ∧ (t.cqs.look c).list = []
          ∧ (t.cqs.look c).writing = none ∧ (t.cqs.look c).timer = none)
      ∧ t.intPending = 0 ∧ t.ax = .idle ∧ intAsserted t = false
      ∧ (∀ k, (s.scans.look k).state = .running →
          (t.scans.look k).state = .loaded
            ∧ (t.scans.look k).passNumber = (s.scans.look k).passNumber
            ∧ (t.scans.look k).overruns = (s.scans.look k).overruns)
      ∧ t.shadows = s.shadows ∧ t.templates = s.templates
      ∧ (s.enable = false → t.device = .off ∧ t.faultCode = s.faultCode
          ∧ t.frontEnd = s.frontEnd ∧ t.store = s.store)
      ∧ (s.enable = true → s.adminSq.entriesM1 ≠ 0 → s.adminCq.entriesM1 ≠ 0 →
          t.device = .starting ∧ t.faultCode = .noFault ∧ t.loading = true
            ∧ t.frontEnd = s.frontEnd ∧ t.store = s.store)

/-- A fetch from SQ0 that ends in a bus error gives FAULT with ADMIN_SQ_FETCH_ERROR, a write to CQ0
that ends in one gives ADMIN_CQ_WRITE_ERROR; STATUS reads the state and the code, no event is
raised, since CQ0 holds no list afterwards, and the effects of FAULT follow: slots, rings, claims,
sources and INT_PENDING cleared, both converters in RECOVERY, running scans LOADED. That OUTSTANDING
is 0 afterwards for a LOADED scan too is the model's reading (notes/assumptions/21).
(09_submission_and_completion_queues.md, sections 9.6 and 9.9; 11_device_control_and_start_up.md,
section 11.5; 02_the_request_table.md, section 2.9;
03_claims_on_terminals_sources_and_converters.md, section 3.7;
04_switch_matrix_and_excitation_sources.md, section 4.6; 05_integrating_converters.md, section 5.6;
07_calibration_store.md, section 7.8; 08_scan_programs_and_limit_watch.md, section 8.10;
10_administrative_commands.md, section 10.2) -/
def Obligations.AdminBusErrorsEnterFault : Prop :=
  ∀ s : State, s.heldInReset = false →
    ((∃ index, s.ax = .fetching index) →
      ∃ t, exec .adminFetchBusError s = .next t ∧ faultEffects .adminSqFetchError s t
        ∧ t.enable = s.enable ∧ readReg t .status = 0x204#32)
    ∧ ((s.cqs.look 0).writing.isSome = true →
      ∃ t, exec (.cqWriteBusError 0) s = .next t ∧ faultEffects .adminCqWriteError s t
        ∧ t.enable = s.enable ∧ readReg t .status = 0x304#32)

/-- At work with CQ0 ACTIVE, SUBMIT gives TAIL its new value when the id is at most 7, the SQ ACTIVE
and the tail below SIZE, SQ0 included, and no other ring's descriptor changes but by the steps
within the event; otherwise no descriptor changes and BAD_SUBMIT naming the queue, or 15 for an id
above 7, with the tail as value is raised on CQ0. Slots and scans stand, and so does everything
aside. (09_submission_and_completion_queues.md, section 9.4; 10_administrative_commands.md, section
10.7) -/
def Obligations.SubmitTakenOrRefused : Prop :=
  ∀ (queue : BitVec 4) (tail : Byte) (s : State), s.atWork → (s.cqs.look 0).state = .active →
    ∃ t, exec (.submit queue tail) s = .next t ∧ t.aside = s.aside ∧ slotsStand [] s t
      ∧ scansStand [] s t
      ∧ (queue.toNat ≤ 7 → (s.sqs.look (eighth queue.toNat)).state = .active →
          tail.toNat < (s.sqs.look (eighth queue.toNat)).size →
          t.sqs.look (eighth queue.toNat)
              = { s.sqs.look (eighth queue.toNat) with tail := tail.toNat }
            ∧ sqsStand [eighth queue.toNat] s t ∧ cqsGrow [] s t)
      ∧ (queue.toNat ≤ 7 →
          (s.sqs.look (eighth queue.toNat)).state ≠ .active
            ∨ (s.sqs.look (eighth queue.toNat)).size ≤ tail.toNat →
          sqsStand [] s t ∧ cqsGrow [0] s t ∧ raised .badSubmit queue.toNat tail.toNat s t)
      ∧ (7 < queue.toNat → sqsStand [] s t ∧ cqsGrow [0] s t ∧ raised .badSubmit 15 tail.toNat s t)

/-- At work with CQ0 ACTIVE and the ring's indices within the ring, RELEASE gives HEAD its new value
when the id is at most 7, the CQ ACTIVE and the new head in the span forward from HEAD to TAIL, and
the ring then at most begins a write; otherwise BAD_RELEASE naming the CQ, or 15, with the head as
value is raised on CQ0 and no HEAD moves. INT_PENDING, the coalescing state, slots and scans stand.
(09_submission_and_completion_queues.md, section 9.4; 10_administrative_commands.md, section 10.7)
-/
def Obligations.ReleaseTakenOrRefused : Prop :=
  ∀ (queue : BitVec 4) (head : Byte) (s : State), s.atWork → (s.cqs.look 0).state = .active →
      RingLaw s →
    ∃ t, exec (.release queue head) s = .next t ∧ t.aside = s.aside ∧ slotsStand [] s t
      ∧ scansStand [] s t
      ∧ sqsStand [] s t
      ∧ ∀ d, s.cqs.look (eighth queue.toNat) = d →
        (queue.toNat ≤ 7 → d.state = .active →
          (∃ n, n ≤ (d.tail + d.size - d.head) % d.size ∧ head.toNat = (d.head + n) % d.size) →
          cqGrows { d with head := head.toNat } (t.cqs.look (eighth queue.toNat))
            ∧ cqsGrow [eighth queue.toNat] s t)
        ∧ (queue.toNat ≤ 7 →
            d.state ≠ .active
              ∨ (∀ n, n ≤ (d.tail + d.size - d.head) % d.size →
                  head.toNat ≠ (d.head + n) % d.size) →
            cqsGrow [0] s t ∧ raised .badRelease queue.toNat head.toNat s t)
        ∧ (7 < queue.toNat → cqsGrow [0] s t ∧ raised .badRelease 15 head.toNat s t)

/-- With no waiting event of the kind and object, the event joins the end of the list with merge
count 1; else no member joins, the first waiting one's merge count advances by one up to 255 and
keeps its value, and every other member stands. The member being written is not waiting. A list
without two waiting events of one kind and object stays so. (09_submission_and_completion_queues.md,
section 9.6; 10_administrative_commands.md, section 10.7) -/
def Obligations.EventJoinsOrMerges : Prop :=
  ∀ (kind : EventKind) (object : Nat) (value : Int) (d : Cq),
    d.withEvent kind object value = { d with list := (d.withEvent kind object value).list }
      ∧ d.inWrite ++ d.waiting = d.list
      ∧ ((kind, object) ∉ d.waiting.filterMap Member.eventKey →
          (d.withEvent kind object value).list
            = d.list ++ [.event { kind := kind, object := object, mergeCount := 1, value := value }])
      ∧ ((kind, object) ∈ d.waiting.filterMap Member.eventKey →
          ∃ before e after, d.waiting = before ++ .event e :: after ∧ e.kind = kind
            ∧ e.object = object
            ∧ (kind, object) ∉ before.filterMap Member.eventKey
            ∧ (d.withEvent kind object value).list
              = d.inWrite ++ before
                  ++ .event { e with mergeCount := min 255 (e.mergeCount + 1) } :: after)
      ∧ ((d.waiting.filterMap Member.eventKey).Nodup →
          ((d.withEvent kind object value).waiting.filterMap Member.eventKey).Nodup)

/-- SQ1 to SQ7 and scan0 to scan7 are the sources, in that cyclic order. An SQ is eligible exactly
in READY while it is ACTIVE and not empty, holds no FETCHING slot and no MARK with HOLD, and fewer
slots than its limit, with its bound CQ ACTIVE; a scan while RUNNING or STOPPING with a template
pending, fewer slots than its limit and its target ACTIVE. The arbiter picks a source exactly when
one is eligible; the source it picks is eligible, no eligible source has a lower class, and none of
its class stands nearer behind the class's rotation pointer in the cyclic sequence; a fill sets that
class's pointer to the source and moves no other. (02_the_request_table.md, sections 2.3 and 2.7;
08_scan_programs_and_limit_watch.md, section 8.5) -/
def Obligations.ArbiterPicksByClassAndRotation : Prop :=
  ∀ s : State,
    (∀ n : Fin 15, sourceAt n = if n.val < 7 then .sq (Fin.ofNat 8 (n.val + 1))
        else .scan (Fin.ofNat 8 (n.val - 7)))
      ∧ (∀ n q, sourceAt n = .sq q →
          sourceClass s n = (s.sqs.look q).cls
            ∧ (eligible s n = true ↔ s.device = .ready ∧ (s.sqs.look q).state = .active
              ∧ (s.sqs.look q).head ≠ (s.sqs.look q).tail
              ∧ (∀ i r, s.slots.look i = some r → r.fromSq q = true →
                  r.state ≠ .fetching ∧ r.hold = false)
              ∧ s.countSlots (fun r => r.fromSq q) < (s.sqs.look q).limit
              ∧ (s.cqs.look (s.sqs.look q).boundCq).state = .active))
      ∧ (∀ n k, sourceAt n = .scan k →
          sourceClass s n = (s.scans.look k).cls
            ∧ (eligible s n = true ↔ s.device = .ready
              ∧ ((s.scans.look k).state = .running ∨ (s.scans.look k).state = .stopping)
              ∧ (s.scans.look k).nextTemplate < (s.scans.look k).count
              ∧ s.countSlots (fun r => r.fromScan k) < (s.scans.look k).limit
              ∧ ∃ c, (s.scans.look k).target = some c ∧ (s.cqs.look c).state = .active))
      ∧ (pickSource s = none ↔ ∀ n, eligible s n = false)
      ∧ ∀ c n, pickSource s = some (c, n) →
          eligible s n = true ∧ sourceClass s n = c
            ∧ (∀ m, eligible s m = true → c ≤ sourceClass s m)
            ∧ (∀ m, eligible s m = true → sourceClass s m = c →
                (n.val + 14 - (s.rotation.look c).val) % 15
                  ≤ (m.val + 14 - (s.rotation.look c).val) % 15)
            ∧ (lowestFree s ≠ none → (fillOne s).rotation = s.rotation.put c n)

/-- In READY, with a FREE slot and a picked source, SLOT_FILL puts a FETCHING record with the SQ's
head as fetch index, bound CQ and class into the lowest FREE slot, or a WAITING record with the
scan's next template, pass number, target CQ and class, which makes an examination due. The slot
joins the end of age order, behind the slots that stand, in their order, and ahead of those that
later fills of the event admit; the scan's NEXT TEMPLATE and OUTSTANDING advance. Occupied slots and
other scans stand, and so does everything aside. That a FETCHING slot's CURRENT RANGE is G0 until
its request is known is the model's choice (notes/assumptions/23). (02_the_request_table.md,
sections 2.1, 2.3, 2.4 and 2.5; 08_scan_programs_and_limit_watch.md, section 8.5) -/
def Obligations.SlotFillAdmits : Prop :=
  ∀ (i : Fin 16) (c : Fin 4) (n : Fin 15) (s : State), s.heldInReset = false → s.device = .ready →
      lowestFree s = some i → pickSource s = some (c, n) →
    (∀ j, j < i → s.slots.look j ≠ none) ∧ s.slots.look i = none
    ∧ ∃ t, exec .slotFill s = .next t ∧ t.aside = s.aside ∧ slotsStand [] s t ∧ sqsStand [] s t
      ∧ (∀ q, sourceAt n = .sq q → scansStand [] s t ∧ (∃ joined, ageJoined (i :: joined) s t)
        ∧ t.slots.look i = some
          { state := .fetching, origin := .sq q (s.sqs.look q).head none,
            targetCq := (s.sqs.look q).boundCq, cls := (s.sqs.look q).cls, request := none,
            needSet := none, bypass := 0, blocking := false, grant := none, currentRange := .g0,
            steps := 0, samplesDone := 0, sum := 0, overrangeSeen := none, result := none,
            pendingAbort := none, hold := false, orphaned := false })
      ∧ (∀ k cq x, sourceAt n = .scan k → (s.scans.look k).target = some cq →
          s.templates[(s.scans.look k).first + (s.scans.look k).nextTemplate]? = some x →
          t.examDue = true ∧ (∃ joined, ageJoined (i :: joined) s t)
          ∧ (∃ m, (t.scans.look k).nextTemplate = (s.scans.look k).nextTemplate + 1 + m
            ∧ (t.scans.look k).outstanding = (s.scans.look k).outstanding + 1 + m)
          ∧ scansStand [k] s t ∧ t.slots.look i = some
            { state := .waiting,
              origin := .scan k (s.scans.look k).nextTemplate (s.scans.look k).passNumber,
              targetCq := cq, cls := (s.scans.look k).cls, request := some x.request,
              needSet := some x.request.needs, bypass := 0, blocking := false, grant := none,
              currentRange := x.request.startRange, steps := 0, samplesDone := 0, sum := 0,
              overrangeSeen := none, result := none, pendingAbort := none, hold := false,
              orphaned := false })

/-- In READY, and in HALTING while another slot holds the halt back, the read of a FETCHING slot
that is not withdrawn and is no MARK advances HEAD and the counter and gives the slot TAG, number
and fields. With no abort pending a valid request enters WAITING with its need set and starting
range and an examination is due; an invalid one is INVALID_REQUEST with its failing check; a pending
abort makes it ABORTED with the starting range, by RANGE alone for a SUPPLY or REF too
(notes/assumptions/23), and stays in the record (notes/assumptions/25). The record joins the bound
CQ, if that is ACTIVE. (02_the_request_table.md, sections 2.2 and 2.4;
01_measurements_and_their_requests.md, section 1.6; 11_device_control_and_start_up.md, section 11.4)
-/
def Obligations.FetchedMeasureEntersTheTable : Prop :=
  ∀ (i : Fin 16) (e : Entry) (r : SlotRec) (q : Fin 8) (index : Nat) (a : Option Admission) (s : State),
      s.heldInReset = false →
      (s.device = .ready ∨ s.device = .halting ∧ ∃ j x, j ≠ i ∧ s.slots.look j = some x
        ∧ x.state ≠ .posting ∧ x.state ≠ .fenced) →
      s.slots.look i = some r → r.state = .fetching → r.origin = .sq q index a →
      r.orphaned = false → (s.sqs.look q).tail ≠ index → (s.sqs.look q).state ≠ .deleting →
      entryOpcode e ≠ opMark →
    ∃ t, exec (.sqFetchDone i e) s = .next t ∧ t.aside = s.aside ∧ slotsStand [i] s t
      ∧ scansStand [] s t
      ∧ t.sqs.look q = { s.sqs.look q with
          head := (index + 1) % (s.sqs.look q).size, seq := (s.sqs.look q).seq + 1 }
      ∧ sqsStand [q] s t
      ∧ ∀ r0, r0 = { r with
            origin := .sq q index (some { tag := entryTag e, seq := (s.sqs.look q).seq })
            request := some (entryRequest e) } →
        (r.pendingAbort = none → failingCheck (entryRequest e) = none →
          t.examDue = true ∧ t.slots.look i = some { r0 with
            state := .waiting, needSet := some (entryRequest e).needs,
            currentRange := (entryRequest e).startRange })
        ∧ (∀ n, r.pendingAbort = none → failingCheck (entryRequest e) = some n →
            (s.cqs.look r.targetCq).state = .active →
            t.slots.look i = some { r0 with
              state := .posting, currentRange := .g0
              result := some { value := 0, status := .invalidRequest, aux := n, generation := 0,
                               flags := RecFlags.clear, limitNew := .unknown, limitPrev := .unknown } }
            ∧ (s.cqs.look r.targetCq).list ++ [.slot i] <+: (t.cqs.look r.targetCq).list)
        ∧ (∀ d, r.pendingAbort = some d → (s.cqs.look r.targetCq).state = .active →
            t.slots.look i = some { r0 with
              state := .posting, currentRange := (entryRequest e).startRange
              result := some { value := 0, status := .aborted, aux := d.code, generation := 0,
                               flags := RecFlags.clear, limitNew := .unknown, limitPrev := .unknown } }
            ∧ (s.cqs.look r.targetCq).list ++ [.slot i] <+: (t.cqs.look r.targetCq).list)

/-- In READY, and in HALTING while another slot holds the halt back, a read whose position the tail
has moved onto frees the slot, with the ring unchanged. A bus error frees it too, with any abort it
held, and raises SQ_FETCH_ERROR with HEAD as value: an ACTIVE SQ becomes FAULTED with HEAD and
counter unchanged, a FAULTED one stands, a DELETING one stands while it holds another slot and else
stands or becomes NONE with its command, every field then 0 by the model's choice
(notes/assumptions/10). The freed slot is FREE, or holds a record admitted anew within the event:
FETCHING for an ACTIVE SQ with entries left, or WAITING for a running scan, with no field of the old
one; no list takes it. Scans stand. (02_the_request_table.md, sections 2.4 and 2.9;
09_submission_and_completion_queues.md, section 9.5; 10_administrative_commands.md, sections 10.5
and 10.7; 11_device_control_and_start_up.md, section 11.4) -/
def Obligations.WithdrawnAndFailedFetches : Prop :=
  ∀ (i : Fin 16) (e : Entry) (r : SlotRec) (q : Fin 8) (index : Nat) (a : Option Admission) (s : State),
      s.heldInReset = false →
      (s.device = .ready ∨ s.device = .halting ∧ ∃ j x, j ≠ i ∧ s.slots.look j = some x
        ∧ x.state ≠ .posting ∧ x.state ≠ .fenced) →
      s.slots.look i = some r → r.state = .fetching → r.origin = .sq q index a →
      (s.cqs.look 0).state = .active →
    ((s.sqs.look q).tail = index →
      ∃ t, exec (.sqFetchDone i e) s = .next t ∧ t.aside = s.aside ∧ slotsStand [i] s t
        ∧ scansStand [] s t
        ∧ sqsStand [] s t ∧ cqsGrow [] s t ∧ freed i s t)
    ∧ ∃ t, exec (.sqFetchBusError i) s = .next t ∧ t.aside = s.aside ∧ slotsStand [i] s t
    ∧ scansStand [] s t
        ∧ sqsStand [q] s t ∧ cqsGrow [0] s t ∧ raised .sqFetchError q.val (s.sqs.look q).head s t
        ∧ freed i s t
        ∧ ((s.sqs.look q).state = .active →
            t.sqs.look q = { s.sqs.look q with state := .faulted })
        ∧ ((s.sqs.look q).state = .faulted → t.sqs.look q = s.sqs.look q)
        ∧ ((s.sqs.look q).state = .deleting →
            (t.sqs.look q = s.sqs.look q ∨ t.sqs.look q = Sq.gone)
              ∧ ((∃ j x, j ≠ i ∧ s.slots.look j = some x ∧ x.fromSq q = true ∧ x.state ≠ .fenced) →
                  t.sqs.look q = s.sqs.look q))

/-- In READY, and in HALTING while another slot holds the halt back, a fetched MARK takes its TAG,
number and HOLD and stays FENCED while an occupied slot of its SQ, other than a MARK, holds an
earlier number; with an abort pending it holds ABORTED with that detail there, and the pending abort
stays in the record (notes/assumptions/25). FENCE_RELEASE of a FENCED MARK with no earlier slot left
posts it, with the ABORTED it holds or with SUCCESS and value 0, at the end of an ACTIVE bound CQ's
list. (02_the_request_table.md, sections 2.4, 2.7 and 2.9; 11_device_control_and_start_up.md,
section 11.4) -/
def Obligations.MarkIsFenced : Prop :=
  ∀ (i : Fin 16) (e : Entry) (r : SlotRec) (q : Fin 8) (index : Nat) (s : State),
      s.heldInReset = false →
      (s.device = .ready ∨ s.device = .halting ∧ ∃ j x, j ≠ i ∧ s.slots.look j = some x
        ∧ x.state ≠ .posting ∧ x.state ≠ .fenced) →
      s.slots.look i = some r → r.orphaned = false →
    ((∃ a, r.origin = .sq q index a) → r.state = .fetching →
        (s.sqs.look q).tail ≠ index → entryOpcode e = opMark →
        (∃ j x, j ≠ i ∧ s.slots.look j = some x ∧ x.state ≠ .fenced
          ∧ x.earlierThan q (s.sqs.look q).seq = true) →
      ∃ t x, exec (.sqFetchDone i e) s = .next t ∧ t.aside = s.aside ∧ slotsStand [i] s t
        ∧ scansStand [] s t
        ∧ t.slots.look i = some { r with
            state := .fenced,
            origin := .sq q index (some { tag := entryTag e, seq := (s.sqs.look q).seq }),
            request := some (entryRequest e), hold := entryFlag e 2, result := x }
        ∧ (r.pendingAbort = none → x = none)
        ∧ (∀ d, r.pendingAbort = some d →
            x = some { value := 0, status := .aborted, aux := d.code, generation := 0,
                       flags := RecFlags.clear, limitNew := .unknown, limitPrev := .unknown })
        ∧ ((s.sqs.look q).state ≠ .deleting → t.sqs.look q = { s.sqs.look q with
            head := (index + 1) % (s.sqs.look q).size, seq := (s.sqs.look q).seq + 1 })
        ∧ sqsStand [q] s t ∧ cqsGrow [] s t)
    ∧ (∀ a, r.origin = .sq q index (some a) → r.state = .fenced →
        (∀ j x, s.slots.look j = some x → x.earlierThan q a.seq = false) →
        (s.cqs.look r.targetCq).state = .active →
      ∃ t, exec (.fenceRelease i) s = .next t ∧ t.aside = s.aside ∧ slotsStand [i] s t
        ∧ scansStand [] s t
        ∧ sqsStand [] s t ∧ cqsGrow [] s t
        ∧ t.slots.look i = some { r with
            state := .posting,
            result := some (r.result.getD
              { value := 0, status := .success, aux := 0, generation := 0, flags := RecFlags.clear,
                limitNew := .unknown, limitPrev := .unknown }) }
        ∧ (s.cqs.look r.targetCq).list ++ [.slot i] <+: (t.cqs.look r.targetCq).list)

/-- A MARK is valid; an OPCODE that is neither fails check 1, and a template's fails it when it is
MARK too. For a MEASURE the failing check is the least number from 2 to 9 whose condition in the
table holds, and there is none when no condition holds; a template's is the same, and then its limit
block's. (R17) -/
def Obligations.ValidationOrder : Prop :=
  ∀ r : Request,
    (r.opcode = 2#8 → failingCheck r = none)
      ∧ (r.opcode ≠ 1#8 → r.opcode ≠ 2#8 → failingCheck r = some 1)
      ∧ (∀ t : Template, t.request = r → r.opcode ≠ 1#8 → failingTemplateCheck t = some 1)
      ∧ (∀ t : Template, t.request = r → r.opcode = 1#8 →
          (∀ n, n ≠ 10 → (failingTemplateCheck t = some n ↔ failingCheck r = some n))
            ∧ (failingTemplateCheck t = some 10 ↔ failingCheck r = none
              ∧ ∃ l, t.limits = some l
                ∧ (l.high < l.low ∨ l.high - l.low < 2 * (l.hysteresis : Int))))
      ∧ (r.opcode = 1#8 → ∀ fails : Nat → Prop,
          (∀ n, fails n ↔
            (n = 2 ∧ 5 < r.mode.toNat)
            ∨ (n = 3 ∧ ((r.mode.toNat ≤ 3 ∧ 15 < r.termA.toNat)
                ∨ (1 ≤ r.mode.toNat ∧ r.mode.toNat ≤ 3 ∧ 15 < r.termB.toNat)
                ∨ (r.mode.toNat = 3 ∧ (15 < r.termC.toNat ∨ 15 < r.termD.toNat))))
            ∨ (n = 4 ∧ (4 < r.range.toNat
                ∨ ((r.mode.toNat = 4 ∨ r.mode.toNat = 5) ∧ r.range.toNat ≠ 0)))
            ∨ (n = 5 ∧ 3 < r.aperture.toNat)
            ∨ (n = 6 ∧ (r.samples.toNat = 0 ∨ 16 < r.samples.toNat))
            ∨ (n = 7 ∧ (r.mode.toNat = 2 ∨ r.mode.toNat = 3)
                ∧ (2 < r.source.toNat ∨ 2 < r.level.toNat))
            ∨ (n = 8 ∧ 2 < r.converter.toNat)
            ∨ (n = 9 ∧ (((r.mode.toNat = 1 ∨ r.mode.toNat = 2) ∧ r.termA = r.termB)
                ∨ (r.mode.toNat = 3 ∧ ¬ [r.termA, r.termB, r.termC, r.termD].Nodup)))) →
          (failingCheck r = none ↔ ∀ n, ¬ fails n)
            ∧ ∀ n, failingCheck r = some n ↔ fails n ∧ ∀ m, m < n → ¬ fails m)

/-- At work with an examination due, the first slot of examination order whose need set can be met
ends the event in SETTLING with its grant and BLOCKING clear; its converter's and its terminals'
records name it, the converter settles on the starting range for 200 µs, 500 µs more from another
range, 300 µs, 1 ms or 5 ms by level in a resistance mode, and EXTRA_SETTLE; its connections are
those of the request by mode, its source ON at the level. Slots that are not WAITING and scans
stand. (03_claims_on_terminals_sources_and_converters.md, section 3.3;
04_switch_matrix_and_excitation_sources.md, sections 4.1, 4.2 and 4.5; 05_integrating_converters.md,
section 5.2) -/
def Obligations.ExaminationGrantsWholeNeedSet : Prop :=
  (∀ q : Request,
    (q.mode.toNat = 0 → q.connections
        = { plus := .terminal (termOf q.termA), minus := .agnd, driveHigh := none, driveLow := none })
      ∧ (q.mode.toNat = 1 → q.connections
        = { plus := .terminal (termOf q.termA), minus := .terminal (termOf q.termB),
            driveHigh := none, driveLow := none })
      ∧ (q.mode.toNat = 2 → q.connections
        = { plus := .terminal (termOf q.termA), minus := .terminal (termOf q.termB),
            driveHigh := some (termOf q.termA), driveLow := some (termOf q.termB) })
      ∧ (q.mode.toNat = 3 → q.connections
        = { plus := .terminal (termOf q.termC), minus := .terminal (termOf q.termD),
            driveHigh := some (termOf q.termA), driveLow := some (termOf q.termB) })
      ∧ (q.mode.toNat = 4 → q.connections
        = { plus := .supplyDivider, minus := .agnd, driveHigh := none, driveLow := none })
      ∧ (q.mode.toNat = 5 → q.connections
        = { plus := .refChannel, minus := .agnd, driveHigh := none, driveLow := none }))
  ∧ ∀ (i : Fin 16) (g : Grant) (r : SlotRec) (q : Request) (ns : NeedSet) (s : State), s.atWork →
      s.examDue = true → firstGrant s = some (i, g) → s.slots.look i = some r →
      r.request = some q → r.needSet = some ns → ns.distinct →
    ∃ t, exec .examination s = .next t
      ∧ t.slots.look i = some { r with state := .settling, grant := some g, blocking := false }
      ∧ t.convClaims.look g.conv = .slot i
      ∧ t.convs.look g.conv = { s.convs.look g.conv with
          state := .settling, serving := .slot i, currentRange := q.startRange,
          phaseTimer := some
            (200 + (if (s.convs.look g.conv).currentRange = q.startRange then 0 else 500)
              + (if q.mode.toNat = 2 ∨ q.mode.toNat = 3 then
                  (match q.level.toNat with
                    | 0 => 300
                    | 1 => 1000
                    | _ => 5000)
                else 0)
              + q.extraSettle.toNat) }
      ∧ t.conns.look g.conv = q.connections
      ∧ (∀ x, g.source = some x →
          t.sourceClaims.look x = some i ∧ t.sources.look x = .on q.levelV i)
      ∧ (∀ term, (term, ClaimKind.drive) ∈ ns.terms → t.termClaims.look term = .drive i)
      ∧ (∀ term, (term, ClaimKind.sense) ∈ ns.terms →
          ∃ hs, t.termClaims.look term = .sense hs ∧ (i, g.conv) ∈ hs)
      ∧ t.control = s.control ∧ t.store = s.store ∧ t.templates = s.templates
      ∧ t.intPending = s.intPending ∧ sqsStand [] s t ∧ cqsGrow [] s t ∧ scansStand [] s t
      ∧ ∀ j x, s.slots.look j = some x → x.state ≠ .waiting → x.state ≠ .fenced →
          t.slots.look j = some x

/-- Examination order holds the WAITING slots of age order, a lower class first and within a class
the older first; the first grant is that of the first slot of the order that has one. An examination
leaves no slot that could be granted: none in examination order has a grant, and no examination is
due; every slot is in its state with its request as before, or was WAITING and is granted.
(03_claims_on_terminals_sources_and_converters.md, section 3.3) -/
def Obligations.ExaminationEndsWithoutAGrant : Prop :=
  ∀ s : State,
    (∀ i, i ∈ examOrder s ↔ i ∈ s.age ∧ ∃ r, s.slots.look i = some r ∧ r.state = .waiting)
      ∧ (s.age.Nodup → (examOrder s).Nodup
          ∧ ∀ i j x y, i ∈ examOrder s → j ∈ examOrder s → s.slots.look i = some x →
              s.slots.look j = some y →
              ((examOrder s).idxOf i < (examOrder s).idxOf j ↔
                x.cls < y.cls ∨ x.cls = y.cls ∧ s.age.idxOf i < s.age.idxOf j))
      ∧ (∀ i g, firstGrant s = some (i, g) ↔ ∃ before after, examOrder s = before ++ i :: after
          ∧ grantFor s i = some g ∧ ∀ j, j ∈ before → grantFor s j = none)
      ∧ (s.examDue = true → WaitingLaw s →
          firstGrant (examine s) = none ∧ (examine s).examDue = false
            ∧ ∀ i r, s.slots.look i = some r → ∃ x, (examine s).slots.look i = some x
                ∧ x.request = r.request ∧ x.needSet = r.needSet ∧ x.origin = r.origin
                ∧ (x.state = r.state
                  ∨ r.state = .waiting ∧ x.state = .settling ∧ x.grant.isSome = true))

/-- At a grant every other WAITING slot's bypass count advances by one up to 8, and the slot whose
count reaches 8 sets BLOCKING; a count at 8 stays; slots in other states stand. (R55) -/
def Obligations.GrantAdvancesBypass : Prop :=
  ∀ (i : Fin 16) (g : Grant) (r : SlotRec) (q : Request) (s : State),
      s.slots.look i = some r → r.request = some q →
    ∀ j x, j ≠ i → s.slots.look j = some x →
      (x.state ≠ .waiting → (grantSlot i g s).slots.look j = some x)
        ∧ (x.state = .waiting → x.bypass < 7 →
            (grantSlot i g s).slots.look j = some { x with bypass := x.bypass + 1 })
        ∧ (x.state = .waiting → x.bypass = 7 →
            (grantSlot i g s).slots.look j = some { x with bypass := 8, blocking := true })
        ∧ (x.state = .waiting → 8 ≤ x.bypass → (grantSlot i g s).slots.look j = some x)

/-- A need set names the terminals, SENSE or DRIVE, the converter choice and the source choice of
its request by mode. It can be met with a converter of its choice that is free, if every DRIVE
terminal is free, every SENSE terminal has no DRIVE holder and no SENSE holder of that converter, a
source of its choice is free and not reserved, and neither the converter nor a terminal is reserved.
The reservations against a slot are the need sets of the other BLOCKING slots of examination order,
but for those behind it when it is BLOCKING itself. A slot has a grant exactly if its need set can
be met with some converter: of two candidates the one whose range alone equals the slot's CURRENT
RANGE, its starting range while it waits, is granted and otherwise CA; a single candidate is granted
whatever its range. The source is among the free sources of the choice that no reservation holds: of
a choice of one source that one at most, of either EX0 when it is one of them and EX1 otherwise, and
none where the need set has none. (03_claims_on_terminals_sources_and_converters.md, sections 3.2,
3.3 and 3.4) -/
def Obligations.ConverterAndSourceChoice : Prop :=
  ∀ (s : State) (reserved : List NeedSet) (ns : NeedSet) (start : Range),
    (∀ i g, grantFor s i = some g → ∃ r m, s.slots.look i = some r ∧ r.needSet = some m
        ∧ g.source = (grantableSources s (reservedAgainst s i) m).head?
        ∧ (m.source ≠ .noSource → g.source ≠ none))
      ∧ (∀ i r m, s.slots.look i = some r → r.needSet = some m →
          ((∀ c, canMeet s (reservedAgainst s i) m c = false) → grantFor s i = none)
            ∧ ∀ c, canMeet s (reservedAgainst s i) m c = true →
                (∀ d, d ≠ c → canMeet s (reservedAgainst s i) m d = true →
                  (s.convs.look c).currentRange = r.currentRange
                      ∧ (s.convs.look d).currentRange ≠ r.currentRange
                    ∨ c = .ca ∧ ¬ ((s.convs.look c).currentRange ≠ r.currentRange
                      ∧ (s.convs.look d).currentRange = r.currentRange)) →
                ∃ g, grantFor s i = some g ∧ g.conv = c)
      ∧ (∀ c, canMeet s reserved ns c = true ↔
          (ns.conv = .either ∨ ns.conv = .only c) ∧ s.convClaims.look c = .free
            ∧ (∀ term, (term, ClaimKind.drive) ∈ ns.terms → s.termClaims.look term = .free)
            ∧ (∀ term, (term, ClaimKind.sense) ∈ ns.terms → s.termClaims.look term = .free
                ∨ ∃ hs, s.termClaims.look term = .sense hs ∧ ∀ j d, (j, d) ∈ hs → d ≠ c)
            ∧ (ns.source = .noSource ∨ ∃ x, x ∈ grantableSources s reserved ns)
            ∧ ∀ b, b ∈ reserved → b.conv ≠ .either ∧ b.conv ≠ .only c
                ∧ ∀ term k l, (term, k) ∈ ns.terms → (term, l) ∉ b.terms)
      ∧ (∀ i m, m ∈ reservedAgainst s i ↔ ∃ j y, j ∈ examOrder s ∧ j ≠ i
          ∧ s.slots.look j = some y ∧ y.blocking = true ∧ y.needSet = some m
          ∧ ¬ ((∃ x, s.slots.look i = some x ∧ x.blocking = true)
            ∧ (examOrder s).idxOf i < (examOrder s).idxOf j))
      ∧ (∀ q : Request,
          q.needs.conv = (if q.converter.toNat = 1 then .only .ca
              else if q.converter.toNat = 2 then .only .cb else .either)
            ∧ q.needs.source = (if q.mode.toNat = 2 ∨ q.mode.toNat = 3 then
                (if q.source.toNat = 1 then .only .ex0
                  else if q.source.toNat = 2 then .only .ex1 else .either)
              else .noSource)
            ∧ (q.mode.toNat = 0 → q.needs.terms = [(termOf q.termA, .sense)])
            ∧ (q.mode.toNat = 1 →
                q.needs.terms = [(termOf q.termA, .sense), (termOf q.termB, .sense)])
            ∧ (q.mode.toNat = 2 →
                q.needs.terms = [(termOf q.termA, .drive), (termOf q.termB, .drive)])
            ∧ (q.mode.toNat = 3 → q.needs.terms = [(termOf q.termA, .drive),
                (termOf q.termB, .drive), (termOf q.termC, .sense), (termOf q.termD, .sense)])
            ∧ (q.mode.toNat = 4 ∨ q.mode.toNat = 5 → q.needs.terms = []))
      ∧ (∀ x, x ∈ grantableSources s reserved ns ↔
        ns.source.takes x = true ∧ s.sourceClaims.look x = none
          ∧ ∀ b, b ∈ reserved → b.source.takes x = false)
      ∧ (∀ x (c : SourceChoice), c.takes x = true ↔ c = .either ∨ c = .only x)
      ∧ (∀ x y, ns.source = .only x → y ∈ grantableSources s reserved ns → y = x)
      ∧ (SourceId.ex0 ∈ grantableSources s reserved ns →
          (grantableSources s reserved ns).head? = some .ex0)
      ∧ (SourceId.ex0 ∉ grantableSources s reserved ns → SourceId.ex1 ∈ grantableSources s reserved ns →
          (grantableSources s reserved ns).head? = some .ex1)
      ∧ (ns.source = .noSource → grantableSources s reserved ns = [])
      ∧ chooseConv s start true false = some .ca ∧ chooseConv s start false true = some .cb
      ∧ chooseConv s start false false = none
      ∧ (s.convs.cb.currentRange = start → s.convs.ca.currentRange ≠ start →
          chooseConv s start true true = some .cb)
      ∧ (s.convs.cb.currentRange ≠ start ∨ s.convs.ca.currentRange = start →
          chooseConv s start true true = some .ca)

/-- At work, SETTLING_END of a converter that serves a slot puts it into AUTOZERO for 1 ms, or into
RUN_UP with COUNTER 0 under NO_AUTOZERO, and the slot into CONVERTING. Nothing else of the slot, of
the front end or aside changes. A converter that serves the start-up check autozeroes.
(04_switch_matrix_and_excitation_sources.md, section 4.5; 05_integrating_converters.md, section 5.2;
02_the_request_table.md, section 2.6) -/
def Obligations.SettlingEndBeginsConversion : Prop :=
  ∀ (c : Conv) (s : State), s.heldInReset = false → (s.convs.look c).state = .settling →
    (∀ i r q, s.atWork → (s.convs.look c).serving = .slot i → s.slots.look i = some r →
        r.request = some q →
      ∃ t, exec (.settlingEnd c) s = .next t
        ∧ t.aside = { s with
            convs := s.convs.put c
                (if q.noAutozero then
                  { s.convs.look c with state := .runUp, phaseTimer := none, counter := 0 }
                else { s.convs.look c with state := .autozero, phaseTimer := some 1000 }) }.aside
        ∧ t.slots.look i = some { r with state := .converting } ∧ slotsStand [i] s t
        ∧ scansStand [] s t
        ∧ sqsStand [] s t ∧ cqsGrow [] s t)
    ∧ (s.device = .starting → DeviceLaw s → (s.convs.look c).serving = .startUp →
      ∃ t, exec (.settlingEnd c) s = .next t
        ∧ t.convs.look c = { s.convs.look c with state := .autozero, phaseTimer := some 1000 }
        ∧ t.store = s.store ∧ t.slots = s.slots)

/-- At work, AUTOZERO_END holds the measured offset and enters RUN_UP with COUNTER 0; RUN_UP_END
records POLARITY and enters RUN_DOWN with COUNTER 0; RANGING_END enters AUTOZERO for 1 ms, or RUN_UP
under NO_AUTOZERO; RECOVERY_END leaves the converter IDLE with its claim free and an examination
due. Slots stand, and all else aside. An integrator at zero at the end of run-up ends its run-down
at once, as a crossing at c = 0 does; that POLARITY then takes the reading is the model's choice
(notes/assumptions/34). In STARTING a check's phases end alike, and its run-down leaves the
converter IDLE, its connections at REST, the check ended and DEGRADED set when overrange or outside
500 ppm, clear when inside, unchanged with an INVALID entry; the other check's end is awaited.
RECOVERY_END in OFF and FAULT changes nothing else, and in STARTING lets a due check begin. That
POLARITY and the held offset keep their values when a converter becomes IDLE is the model's choice
(notes/assumptions/25). (05_integrating_converters.md, sections 5.3, 5.5, 5.7, 5.8 and 5.9;
03_claims_on_terminals_sources_and_converters.md, sections 3.5 and 3.7; 06_result_correction.md,
section 6.3; 11_device_control_and_start_up.md, section 11.3) -/
def Obligations.PhasesOfAConversion : Prop :=
  ∀ (c : Conv) (offset : Int) (positive : Bool) (s : State), s.heldInReset = false →
    (s.atWork →
      ((s.convs.look c).state = .autozero →
        ∃ t, exec (.autozeroEnd c offset) s = .next t
          ∧ t.aside = { s with convs := s.convs.put c { s.convs.look c with
              state := .runUp, phaseTimer := none, counter := 0, heldOffset := offset } }.aside
          ∧ slotsStand [] s t ∧ scansStand [] s t ∧ sqsStand [] s t ∧ cqsGrow [] s t)
      ∧ ((s.convs.look c).state = .runUp →
        ∃ t, exec (.runUpEnd c { positive := positive, zero := false }) s = .next t
          ∧ t.aside = { s with convs := s.convs.put c { s.convs.look c with
              state := .runDown, polarity := if positive then .pos else .neg, counter := 0 } }.aside
          ∧ slotsStand [] s t ∧ scansStand [] s t ∧ sqsStand [] s t ∧ cqsGrow [] s t)
      ∧ (∀ i r q, (s.convs.look c).state = .ranging → (s.convs.look c).serving = .slot i →
          s.slots.look i = some r → r.request = some q →
        ∃ t, exec (.rangingEnd c) s = .next t
          ∧ t.aside = { s with
              convs := s.convs.put c
                  (if q.noAutozero then
                    { s.convs.look c with state := .runUp, phaseTimer := none, counter := 0 }
                  else { s.convs.look c with state := .autozero, phaseTimer := some 1000 }) }.aside
          ∧ slotsStand [] s t ∧ scansStand [] s t ∧ sqsStand [] s t ∧ cqsGrow [] s t)
      ∧ ((s.convs.look c).state = .recovery →
        ∃ t, exec (.recoveryEnd c) s = .next t ∧ t.examDue = true
          ∧ t.aside = { s with
              convs := s.convs.put c { s.convs.look c with state := .idle, phaseTimer := none }
              convClaims := s.convClaims.put c .free }.aside
          ∧ slotsStand [] s t ∧ scansStand [] s t ∧ sqsStand [] s t ∧ cqsGrow [] s t))
    ∧ ((s.convs.look c).state = .runUp →
      ∃ t, exec (.runUpEnd c { positive := positive, zero := true }) s = .next t
        ∧ exec (.runDownEnd c 0) { s with convs := s.convs.put c { s.convs.look c with
            state := .runDown, polarity := if positive then .pos else .neg, counter := 0 } }
          = .next t)
    ∧ (s.device = .starting → DeviceLaw s → (s.convs.look c).serving = .startUp →
      ((s.convs.look c).state = .autozero →
        ∃ t, exec (.autozeroEnd c offset) s = .next t
          ∧ t.convs.look c = { s.convs.look c with
              state := .runUp, phaseTimer := none, counter := 0, heldOffset := offset }
          ∧ t.conns.look c = s.conns.look c ∧ t.device = .starting ∧ t.checks.look c = .running
          ∧ t.store = s.store ∧ t.slots = s.slots ∧ t.convClaims = s.convClaims)
      ∧ ((s.convs.look c).state = .runUp →
        ∃ t, exec (.runUpEnd c { positive := positive, zero := false }) s = .next t
          ∧ t.convs.look c = { s.convs.look c with
              state := .runDown, polarity := if positive then .pos else .neg, counter := 0 }
          ∧ t.conns.look c = s.conns.look c ∧ t.device = .starting ∧ t.checks.look c = .running
          ∧ t.store = s.store ∧ t.slots = s.slots ∧ t.convClaims = s.convClaims)
      ∧ ∀ (n : Nat) (ovr degraded : Bool) (cmd : Instr) (e r : Shadow) (v : Int),
          (s.convs.look c).state = .runDown →
          (ovr = false → cmd = .runDownEnd c n ∧ n < 12500) →
          (ovr = true → cmd = .runDownOverrange c ∧ n = 12500) →
          e = s.shadows.look (voltageEntry c .g0) → r = s.shadows.look (refEntry c) →
          v = roundDiv ((1000 * (match (s.convs.look c).polarity with
              | .pos => (n : Int)
              | .neg => -(n : Int)) - e.wordA.toInt) * e.wordB.toNat) 1073741824 →
          (degraded = true ↔ ovr = true
            ∨ (e.valid = true ∧ r.valid = true
              ∧ ¬ (v - r.wordA.toInt).natAbs * 2000 ≤ r.wordA.toInt.natAbs)
            ∨ (¬ (e.valid = true ∧ r.valid = true) ∧ (s.convs.look c).degraded = true)) →
        ∃ t, exec cmd s = .next t
          ∧ t.convs.look c = { s.convs.look c with
              state := .idle, serving := .nothing, phaseTimer := none, counter := n,
              degraded := degraded }
          ∧ t.conns.look c = ConnSet.rest ∧ t.store = s.store ∧ t.slots = s.slots
          ∧ t.convClaims = s.convClaims
          ∧ ∀ d, d ≠ c →
              (s.checks.look d ≠ .ended → t.device = .starting ∧ t.checks.look c = .ended
                ∧ t.cqs = s.cqs)
              ∧ (s.checks.look d = .ended → t.device = if s.enable then .ready else .off))
    ∧ (DeviceLaw s → (s.convs.look c).state = .recovery →
      (s.device = .off ∨ s.device = .fault →
        exec (.recoveryEnd c) s = .next { s with
          convs := s.convs.put c { s.convs.look c with state := .idle, phaseTimer := none }
          convClaims := s.convClaims.put c .free
          examDue := true })
      ∧ (s.device = .starting → s.checks.look c = .notDue ∨ s.checks.look c = .due →
        ∃ t, exec (.recoveryEnd c) s = .next t ∧ t.device = .starting
          ∧ t.convClaims = s.convClaims.put c .free ∧ t.store = s.store ∧ t.slots = s.slots
          ∧ (s.checks.look c = .notDue → t.checks.look c = .notDue
              ∧ t.convs.look c = { s.convs.look c with state := .idle, phaseTimer := none }
              ∧ t.conns.look c = s.conns.look c)
          ∧ (s.checks.look c = .due → t.checks.look c = .running
              ∧ t.convs.look c = { s.convs.look c with
                  state := .settling, serving := .startUp, currentRange := .g0,
                  phaseTimer := some (if (s.convs.look c).currentRange = .g0 then 200 else 700) }
              ∧ t.conns.look c
                = { plus := .refChannel, minus := .agnd, driveHigh := none, driveLow := none })))

/-- At work, the run-down of a request whose RANGE is AUTO before its first sample: overrange on a
range narrower than G0 with fewer than 3 steps used steps one range wider, a count with 12 × count
below N on a range other than G3 with fewer than 3 steps steps one narrower; a step advances
AUTORANGE STEPS, writes the range into slot and converter and enters RANGING for 500 µs, adding
nothing to SUM and SAMPLES DONE. (05_integrating_converters.md, section 5.5) -/
def Obligations.AutorangeSteps : Prop :=
  (Range.g3.wider = .g2 ∧ Range.g2.wider = .g1 ∧ Range.g1.wider = .g0
    ∧ Range.g0.narrower = .g1 ∧ Range.g1.narrower = .g2 ∧ Range.g2.narrower = .g3)
  ∧ ∀ (c : Conv) (n : Nat) (i : Fin 16) (r : SlotRec) (q : Request) (s : State), s.atWork →
      (s.convs.look c).state = .runDown → (s.convs.look c).serving = .slot i →
      s.slots.look i = some r → r.state = .converting → r.request = some q →
      q.range.toNat = 4 → r.samplesDone = 0 → r.steps < 3 →
    ((s.convs.look c).currentRange ≠ .g0 →
      ∃ t, exec (.runDownOverrange c) s = .next t
        ∧ t.slots.look i = some { r with
            steps := r.steps + 1, currentRange := (s.convs.look c).currentRange.wider }
        ∧ t.aside = { s with convs := s.convs.put c { s.convs.look c with
            state := .ranging, currentRange := (s.convs.look c).currentRange.wider,
            phaseTimer := some 500, counter := q.apertureV.limit } }.aside
        ∧ slotsStand [i] s t ∧ scansStand [] s t ∧ sqsStand [] s t ∧ cqsGrow [] s t)
    ∧ ((s.convs.look c).currentRange ≠ .g3 → 12 * n < q.apertureV.counts →
      ∃ t, exec (.runDownEnd c n) s = .next t
        ∧ t.slots.look i = some { r with
            steps := r.steps + 1, currentRange := (s.convs.look c).currentRange.narrower }
        ∧ t.aside = { s with convs := s.convs.put c { s.convs.look c with
            state := .ranging, currentRange := (s.convs.look c).currentRange.narrower,
            phaseTimer := some 500, counter := n } }.aside
        ∧ slotsStand [i] s t ∧ scansStand [] s t ∧ sqsStand [] s t ∧ cqsGrow [] s t)

/-- At work, the run-down of a sample after n counts below 1.25 N, or of an autorange conversion
with no step left to take, that is not the last of its request: SAMPLES DONE advances by one, SUM
takes n with the sign of POLARITY, CURRENT RANGE holds the converter's range, and the converter
begins the next conversion with its claims and connections as they stand.
(05_integrating_converters.md, sections 5.3, 5.4 and 5.5) -/
def Obligations.SampleCounts : Prop :=
  ∀ (c : Conv) (n : Nat) (i : Fin 16) (r : SlotRec) (q : Request) (s : State), s.atWork →
      (s.convs.look c).state = .runDown → (s.convs.look c).serving = .slot i →
      s.slots.look i = some r → r.state = .converting → r.request = some q →
      n < q.apertureV.limit → r.samplesDone + 1 ≠ q.samples.toNat →
      (q.range.toNat ≠ 4 ∨ r.samplesDone ≠ 0 ∨ r.steps = 3 ∨ q.apertureV.counts ≤ 12 * n
        ∨ (s.convs.look c).currentRange = .g3) →
    ∃ t, exec (.runDownEnd c n) s = .next t
      ∧ t.slots.look i = some { r with
          samplesDone := r.samplesDone + 1,
          sum := r.sum + (match (s.convs.look c).polarity with
            | .pos => (n : Int)
            | .neg => -(n : Int)),
          currentRange := (s.convs.look c).currentRange }
      ∧ t.aside = { s with
          convs := s.convs.put c
              (if q.noAutozero then
                { s.convs.look c with state := .runUp, phaseTimer := none, counter := 0 }
              else
                { s.convs.look c with
                  state := .autozero, phaseTimer := some 1000, counter := n }) }.aside
      ∧ slotsStand [i] s t ∧ scansStand [] s t ∧ sqsStand [] s t ∧ cqsGrow [] s t

/-- At work, at the last sample, or at an overranged one (1.25 N counts, OVERRANGE SEEN taking
POLARITY), the slot of a voltage, SUPPLY or resistance request enters CORRECTING with SAMPLES DONE,
SUM and range written and its result formed: value, status and generations by the outcome of
correction, the flags RAW when asked for or with CAL_INVALID, AUTORANGED when RANGE is AUTO,
DEGRADED as the converter's flag stands, and OVERRANGE_POS or _NEG by the outcome's sign; the
converter is IDLE and free on its range, its connections at REST, its source OFF and free, no
terminal of the need set held by the slot, and an examination is due. Store, templates, scans and
other slots stand. A crossing after more than 1.25 N counts is taken as overrange: the model's
choice (notes/assumptions/16). That the IDLE converter's POLARITY and held offset keep their values
is the model's too (notes/assumptions/25). (05_integrating_converters.md, sections 5.3, 5.4 and 5.5;
03_claims_on_terminals_sources_and_converters.md, section 3.5;
04_switch_matrix_and_excitation_sources.md, section 4.3; 06_result_correction.md, section 6.1;
06_result_correction.md, section 6.7) -/
def Obligations.ConversionsEnd : Prop :=
  ∀ (c : Conv) (n : Nat) (i : Fin 16) (r : SlotRec) (q : Request) (g : Grant) (s : State), s.atWork →
      (s.convs.look c).state = .runDown → (s.convs.look c).serving = .slot i →
      s.slots.look i = some r → r.state = .converting → r.request = some q → r.grant = some g →
      g.conv = c → q.modeV ≠ .ref →
    (q.apertureV.limit ≤ n → exec (.runDownEnd c n) s = exec (.runDownOverrange c) s)
    ∧ ∀ (ovr : Bool) (cmd : Instr),
      (ovr = false → cmd = .runDownEnd c n ∧ n < q.apertureV.limit
        ∧ r.samplesDone + 1 = q.samples.toNat
        ∧ (q.range.toNat ≠ 4 ∨ r.samplesDone ≠ 0 ∨ r.steps = 3 ∨ q.apertureV.counts ≤ 12 * n
          ∨ (s.convs.look c).currentRange = .g3)) →
      (ovr = true → cmd = .runDownOverrange c ∧ n = q.apertureV.limit
        ∧ (q.range.toNat ≠ 4 ∨ r.samplesDone ≠ 0 ∨ r.steps = 3
          ∨ (s.convs.look c).currentRange = .g0)) →
    ∃ t x o, exec cmd s = .next t ∧ t.slots.look i = some x
      ∧ x = { r with
          state := .correcting, samplesDone := r.samplesDone + 1,
          sum := r.sum + signedCount (s.convs.look c).polarity n,
          overrangeSeen := if ovr then some (s.convs.look c).polarity else r.overrangeSeen,
          currentRange := (s.convs.look c).currentRange, result := x.result }
      ∧ o = correctionOutcome q.modeV q.raw q.apertureV
          (if q.modeV = .supply then .g0 else (s.convs.look c).currentRange) x.samplesDone x.sum
          x.overrangeSeen
          (s.shadows.look (voltageEntry c
            (if q.modeV = .supply then .g0 else (s.convs.look c).currentRange)))
          (s.shadows.look (refEntry c))
          (match g.source with
            | some y => s.shadows.look (currentEntry y q.levelV)
            | none => Shadow.reset)
      ∧ x.result = some
          { value := o.value, status := o.status, aux := o.aux, generation := o.generation,
            flags :=
              { raw := q.raw || o.status == .calInvalid, autoranged := q.range.toNat == 4,
                degraded := (s.convs.look c).degraded, overrangePos := o.sign == some .pos,
                overrangeNeg := o.sign == some .neg, limitChange := false },
            limitNew := .unknown, limitPrev := .unknown }
      ∧ t.convs.look c = { s.convs.look c with
          state := .idle, serving := .nothing, phaseTimer := none, counter := n }
      ∧ t.convClaims.look c = .free ∧ t.conns.look c = ConnSet.rest ∧ t.examDue = true
      ∧ (∀ y, g.source = some y → t.sourceClaims.look y = none ∧ t.sources.look y = .off)
      ∧ (∀ ns term kind, r.needSet = some ns → (term, kind) ∈ ns.terms →
          t.termClaims.look term ≠ .drive i
            ∧ ∀ hs, t.termClaims.look term = .sense hs → ∀ d, (i, d) ∉ hs)
      ∧ t.control = s.control ∧ t.store = s.store ∧ t.templates = s.templates
      ∧ slotsStand [i] s t ∧ scansStand [] s t ∧ sqsStand [] s t ∧ cqsGrow [] s t

/-- At work with CQ0 ACTIVE, the last or an overranged sample of a REF request on G0: an overranged
one gives OVERRANGE with ±12,500,000 and sets DEGRADED unless RAW; else RAW gives SUCCESS, and an
INVALID entry CAL_INVALID, with the rounded average count and the flag RAW, and leave DEGRADED; else
the calibrated reading of the average is SUCCESS inside 500 ppm of the REF entry and clears
DEGRADED, and REF_OUT_OF_TOLERANCE outside and sets it. A change of the flag, and nothing else,
raises CONVERTER_DEGRADED or CONVERTER_RESTORED with the value; the record's DEGRADED flag is the
new flag, and AUTORANGED is clear. The result of one sample is stated apart as well. That the IDLE
converter's POLARITY and held offset keep their values is the model's choice (notes/assumptions/25).
(05_integrating_converters.md, section 5.8; 06_result_correction.md, sections 6.2 and 6.3;
10_administrative_commands.md, section 10.7; 06_result_correction.md, section 6.7) -/
def Obligations.RefResultSetsDegraded : Prop :=
  (∀ (c : Conv) (n : Nat) (i : Fin 16) (r : SlotRec) (q : Request) (g : Grant) (v : Int) (s : State),
      s.atWork → (s.cqs.look 0).state = .active →
      (s.convs.look c).state = .runDown → (s.convs.look c).serving = .slot i →
      s.slots.look i = some r → r.state = .converting → r.request = some q → r.grant = some g →
      g.conv = c → q.mode = 5#8 → q.range = 0#8 → q.raw = false → q.samples = 1#8 →
      r.samplesDone = 0 → r.sum = 0 → r.overrangeSeen = none → n < q.apertureV.limit →
      (s.shadows.look (voltageEntry c .g0)).valid = true → (s.shadows.look (refEntry c)).valid = true →
      v = calibratedVoltage (q.apertureV.lsbPerCount * signedCount (s.convs.look c).polarity n)
        (s.shadows.look (voltageEntry c .g0)) →
    ∀ (inside : Bool),
      (inside = true ↔ (v - (s.shadows.look (refEntry c)).wordA.toInt).natAbs * 2000
        ≤ (s.shadows.look (refEntry c)).wordA.toInt.natAbs) →
    ∃ t x res, exec (.runDownEnd c n) s = .next t ∧ t.slots.look i = some x ∧ x.result = some res
      ∧ x.state = .correcting ∧ res.value = v
      ∧ res.status = (if inside then .success else .refOutOfTolerance)
      ∧ res.generation = (s.shadows.look (voltageEntry c .g0)).generation
      ∧ res.flags.degraded = !inside ∧ (t.convs.look c).degraded = !inside
      ∧ ((s.convs.look c).degraded = !inside → cqsGrow [] s t)
      ∧ ((s.convs.look c).degraded = inside →
          cqsGrow [0] s t ∧ raised (if inside then .converterRestored else .converterDegraded)
            (match c with
              | .ca => 1
              | .cb => 2) v s t)
      ∧ t.store = s.store ∧ slotsStand [i] s t ∧ scansStand [] s t)
  ∧ ∀ (c : Conv) (n : Nat) (ovr : Bool) (cmd : Instr) (i : Fin 16) (r : SlotRec) (q : Request)
      (g : Grant) (e ref : Shadow) (average v : Int) (s : State),
      s.atWork → (s.cqs.look 0).state = .active →
      (s.convs.look c).state = .runDown → (s.convs.look c).serving = .slot i →
      s.slots.look i = some r → r.state = .converting → r.request = some q → r.grant = some g →
      g.conv = c → q.mode = 5#8 → q.range = 0#8 →
      (ovr = false → cmd = .runDownEnd c n ∧ n < q.apertureV.limit
        ∧ r.samplesDone + 1 = q.samples.toNat ∧ r.overrangeSeen = none) →
      (ovr = true → cmd = .runDownOverrange c ∧ n = q.apertureV.limit) →
      e = s.shadows.look (voltageEntry c .g0) → ref = s.shadows.look (refEntry c) →
      average = roundDiv (r.sum + signedCount (s.convs.look c).polarity n) (r.samplesDone + 1) →
      v = roundDiv ((q.apertureV.lsbPerCount * average - e.wordA.toInt) * e.wordB.toNat)
        1073741824 →
    ∃ t x res, exec cmd s = .next t ∧ t.slots.look i = some x
      ∧ x = { r with
          state := .correcting, samplesDone := r.samplesDone + 1,
          sum := r.sum + signedCount (s.convs.look c).polarity n,
          overrangeSeen := if ovr then some (s.convs.look c).polarity else r.overrangeSeen,
          currentRange := (s.convs.look c).currentRange, result := some res }
      ∧ t.convs.look c = { s.convs.look c with
          state := .idle, serving := .nothing, phaseTimer := none, counter := n,
          degraded := res.flags.degraded }
      ∧ t.convClaims.look c = .free ∧ t.conns.look c = ConnSet.rest
      ∧ res.aux = 0 ∧ res.flags.autoranged = false ∧ res.flags.limitChange = false
      ∧ (ovr = true → res.status = .overrange
          ∧ res.value = (match (s.convs.look c).polarity with
            | .pos => 12500000
            | .neg => -12500000)
          ∧ res.generation = 0 ∧ res.flags.raw = q.raw
          ∧ res.flags.overrangePos = ((s.convs.look c).polarity == .pos)
          ∧ res.flags.overrangeNeg = ((s.convs.look c).polarity == .neg)
          ∧ res.flags.degraded = (!q.raw || (s.convs.look c).degraded))
      ∧ (ovr = false → res.flags.overrangePos = false ∧ res.flags.overrangeNeg = false
        ∧ (q.raw = true → res.status = .success ∧ res.value = average ∧ res.generation = 0
            ∧ res.flags.raw = true ∧ res.flags.degraded = (s.convs.look c).degraded)
        ∧ (q.raw = false → e.valid = false ∨ ref.valid = false →
            res.status = .calInvalid ∧ res.value = average ∧ res.generation = 0
              ∧ res.flags.raw = true ∧ res.flags.degraded = (s.convs.look c).degraded)
        ∧ (q.raw = false → e.valid = true → ref.valid = true →
            res.value = v ∧ res.generation = e.generation ∧ res.flags.raw = false
              ∧ ((v - ref.wordA.toInt).natAbs * 2000 ≤ ref.wordA.toInt.natAbs →
                  res.status = .success ∧ res.flags.degraded = false)
              ∧ (¬ (v - ref.wordA.toInt).natAbs * 2000 ≤ ref.wordA.toInt.natAbs →
                  res.status = .refOutOfTolerance ∧ res.flags.degraded = true)))
      ∧ ((s.convs.look c).degraded = res.flags.degraded → cqsGrow [] s t)
      ∧ ((s.convs.look c).degraded ≠ res.flags.degraded → cqsGrow [0] s t
          ∧ raised (if res.flags.degraded then .converterDegraded else .converterRestored)
            (match c with
              | .ca => 1
              | .cb => 2) res.value s t)
      ∧ t.store = s.store ∧ slotsStand [i] s t ∧ scansStand [] s t ∧ sqsStand [] s t

/-- An overranged sample decides first (±12,500,000, no calibration); then RAW (the rounded average
count); then a needed INVALID entry (CAL_INVALID, the same count); otherwise a voltage is round((u −
offset) × gain / 2^30), a SUPPLY four times it, a resistance round(v × 10^(9 − g) / I), with the
generations of the entries used; outside the signed 32-bit range, and for a current entry of 0 by
the sign of v, the status is OVERRANGE with the end of the range. Rounding is to the nearest
integer, halves away from zero. The lengths N and 1.25 N in counts and the LSB per count go by
aperture; the entries used are those of converter and range, of source and level, and the REF entry
of the converter. (00_scope.md, Conventions, Rounding; 06_result_correction.md, sections 6.2, 6.3,
6.5 and 6.6; 01_measurements_and_their_requests.md, section 1.4; 05_integrating_converters.md,
section 5.3; 07_calibration_store.md, section 7.1) -/
def Obligations.CorrectionOrder : Prop :=
  (∀ a : Aperture, (a.counts, a.limit, a.lsbPerCount) = (match a with
      | .ap0 => (200000, 250000, 50)
      | .ap1 => (40000, 50000, 250)
      | .ap2 => (10000, 12500, 1000)
      | .ap3 => (2000, 2500, 5000)))
  ∧ (∀ g : Range, (voltageEntry .ca g).val = g.index ∧ (voltageEntry .cb g).val = 4 + g.index)
  ∧ (∀ l : Level, (currentEntry .ex0 l).val = 8 + l.index ∧ (currentEntry .ex1 l).val = 11 + l.index
      ∧ l.index = (match l with
        | .i0 => 0
        | .i1 => 1
        | .i2 => 2))
  ∧ refEntry .ca = 14 ∧ refEntry .cb = 15
  ∧ (∀ n : Nat, signedCount .pos n = n ∧ signedCount .neg n = -(n : Int))
  ∧ (∀ (a : Int) (b : Nat), 0 < b →
    2 * (roundDiv a b * b - a).natAbs ≤ b
      ∧ (2 * (roundDiv a b * b - a).natAbs = b → a.natAbs < (roundDiv a b).natAbs * b)
      ∧ roundDiv (-a) b = -roundDiv a b ∧ (0 ≤ a → 0 ≤ roundDiv a b))
  ∧ ∀ (m : Mode) (raw : Bool) (a : Aperture) (g : Range) (samples : Nat) (sum : Int)
      (seen : Option Sign) (volt ref cur : Shadow) (o : Corrected),
      o = correctionOutcome m raw a g samples sum seen volt ref cur →
    (∀ sg, seen = some sg → o.status = .overrange ∧ o.generation = 0 ∧ o.aux = 0
        ∧ o.sign = some sg ∧ o.value = (match sg with
          | .pos => 12500000
          | .neg => -12500000))
    ∧ (seen = none → raw = true →
        o = { status := .success, value := roundDiv sum samples, generation := 0, aux := 0,
              sign := none })
    ∧ (seen = none → raw = false →
        volt.valid = false ∨ (m = .ref ∧ ref.valid = false)
          ∨ ((m = .res2w ∨ m = .res4w) ∧ cur.valid = false) →
        o = { status := .calInvalid, value := roundDiv sum samples, generation := 0, aux := 0,
              sign := none })
    ∧ ∀ v, v = roundDiv ((a.lsbPerCount * roundDiv sum samples - volt.wordA.toInt) * volt.wordB.toNat)
          1073741824 →
        seen = none → raw = false → volt.valid = true →
      (∀ (x : Int) (aux : Nat),
          ((m = .voltSe ∨ m = .voltDiff) ∧ x = v ∧ aux = 0)
            ∨ (m = .supply ∧ x = 4 * v ∧ aux = 0)
            ∨ ((m = .res2w ∨ m = .res4w) ∧ cur.valid = true ∧ cur.wordA ≠ 0
                ∧ x = roundDiv (v * 10 ^ (9 - g.index)) cur.wordA.toNat ∧ aux = cur.generation) →
        (-2147483648 ≤ x → x ≤ 2147483647 →
          o = { status := .success, value := x, generation := volt.generation, aux := aux,
                sign := none })
        ∧ (2147483647 < x →
          o = { status := .overrange, value := 2147483647, generation := volt.generation,
                aux := aux, sign := some .pos })
        ∧ (x < -2147483648 →
          o = { status := .overrange, value := -2147483648, generation := volt.generation,
                aux := aux, sign := some .neg }))
      ∧ ((m = .res2w ∨ m = .res4w) → cur.valid = true → cur.wordA = 0 →
          o = if v < 0 then
                { status := .overrange, value := -2147483648, generation := volt.generation,
                  aux := cur.generation, sign := some .neg }
              else
                { status := .overrange, value := 2147483647, generation := volt.generation,
                  aux := cur.generation, sign := some .pos })
      ∧ (m = .ref → ref.valid = true →
          o.value = v ∧ o.generation = volt.generation ∧ o.aux = 0 ∧ o.sign = none
            ∧ (o.status = .success ↔
                (v - ref.wordA.toInt).natAbs * 2000 ≤ ref.wordA.toInt.natAbs)
            ∧ (o.status = .success ∨ o.status = .refOutOfTolerance))

/-- In READY, and in HALTING while another slot holds the halt back, a CORRECTING slot of an SQ, or
of a template without a limit block, whose target CQ is ACTIVE enters POSTING with its result
unchanged at the end of that list. A slot of a scan, not ORPHANED, whose template has a limit block
is classified: the template takes the new LIMIT STATE, and the slot is posted with both limit states
and LIMIT_CHANGE, unless REPORT_CHANGES_ONLY is set and nothing changed; then no record is made of
it. An ORPHANED slot, and one whose target CQ is not ACTIVE, is freed without a record, the latter
after its classification where its template has a limit block, and no list takes it. Everything
aside but the template stands, and every scan but that of a freed slot. (02_the_request_table.md,
sections 2.6 and 2.8; 08_scan_programs_and_limit_watch.md, section 8.8;
11_device_control_and_start_up.md, section 11.4) -/
def Obligations.CorrectionEndPosts : Prop :=
  ∀ (i : Fin 16) (r : SlotRec) (res : Result) (s : State), s.heldInReset = false →
      (s.device = .ready ∨ s.device = .halting ∧ ∃ j x, j ≠ i ∧ s.slots.look j = some x
        ∧ x.state ≠ .posting ∧ x.state ≠ .fenced) →
      s.slots.look i = some r → r.state = .correcting → r.result = some res →
    (r.orphaned = false → (s.cqs.look r.targetCq).state = .active →
      ((∃ q index a, r.origin = .sq q index a)
          ∨ (∃ k index pass x, r.origin = .scan k index pass
            ∧ s.templates[(s.scans.look k).first + index]? = some x ∧ x.limits = none) →
        ∃ t, exec (.correctionEnd i) s = .next t ∧ t.aside = s.aside ∧ slotsStand [i] s t
          ∧ sqsStand [] s t ∧ cqsGrow [] s t ∧ scansStand [] s t
          ∧ t.slots.look i = some { r with state := .posting }
          ∧ (s.cqs.look r.targetCq).list ++ [.slot i] <+: (t.cqs.look r.targetCq).list)
      ∧ ∀ k index pass x l new, r.origin = .scan k index pass →
          s.templates[(s.scans.look k).first + index]? = some x → x.limits = some l →
          new = (if res.status = .success ∨ res.status = .overrange then classify l x.limitState res
            else x.limitState) →
        ∃ t, exec (.correctionEnd i) s = .next t ∧ slotsStand [i] s t ∧ sqsStand [] s t
          ∧ cqsGrow [] s t
          ∧ t.control = s.control ∧ t.frontEnd = s.frontEnd ∧ t.store = s.store
          ∧ t.intPending = s.intPending
          ∧ t.templates[(s.scans.look k).first + index]? = some { x with limitState := new }
          ∧ (∀ p, p ≠ (s.scans.look k).first + index → t.templates[p]? = s.templates[p]?)
          ∧ (∀ j, j ≠ k → scanStands (s.scans.look j) (t.scans.look j))
          ∧ (l.changesOnly = false ∨ new ≠ x.limitState → scansStand [] s t
              ∧ t.slots.look i = some { r with
                state := .posting
                result := some { res with
                  limitNew := new, limitPrev := x.limitState,
                  flags := { res.flags with limitChange := decide (new ≠ x.limitState) } } }
              ∧ (s.cqs.look r.targetCq).list ++ [.slot i] <+: (t.cqs.look r.targetCq).list)
          ∧ (l.changesOnly = true → new = x.limitState →
              freed i s t))
    ∧ (r.orphaned = true
        ∨ (s.cqs.look r.targetCq).state ≠ .active
          ∧ ((∃ q index a, r.origin = .sq q index a)
            ∨ (∃ k index pass x, r.origin = .scan k index pass
              ∧ s.templates[(s.scans.look k).first + index]? = some x ∧ x.limits = none)) →
      ∃ t, exec (.correctionEnd i) s = .next t ∧ t.aside = s.aside ∧ slotsStand [i] s t
        ∧ sqsStand [] s t ∧ cqsGrow [] s t ∧ freed i s t
        ∧ ∀ j, r.fromScan j = false → scanStands (s.scans.look j) (t.scans.look j))
    ∧ (r.orphaned = false → (s.cqs.look r.targetCq).state ≠ .active →
      ∀ k index pass x l, r.origin = .scan k index pass →
          s.templates[(s.scans.look k).first + index]? = some x → x.limits = some l →
        ∃ t, exec (.correctionEnd i) s = .next t ∧ freed i s t ∧ slotsStand [i] s t
          ∧ sqsStand [] s t ∧ cqsGrow [] s t
          ∧ t.control = s.control ∧ t.frontEnd = s.frontEnd ∧ t.store = s.store
          ∧ t.intPending = s.intPending
          ∧ (∀ j, j ≠ k → scanStands (s.scans.look j) (t.scans.look j))
          ∧ t.templates[(s.scans.look k).first + index]? = some { x with
              limitState :=
                if res.status = .success ∨ res.status = .overrange then classify l x.limitState res
                else x.limitState }
          ∧ ∀ p, p ≠ (s.scans.look k).first + index → t.templates[p]? = s.templates[p]?)

/-- With v the value, or beyond HIGH or LOW by its sign flag for an OVERRANGE result, the new state
is ABOVE, BELOW or INSIDE by the first matching line of the table for the present state, with the
hysteresis formed exactly. A block that passes check 10 has a band of width at least 0 between the
return thresholds, both of them inside the limits. (R151) -/
def Obligations.LimitClassification : Prop :=
  ∀ (l : LimitBlock) (p : LimitState) (r : Result) (above below backA backB : Prop),
      (above ↔ (r.status = .overrange ∧ r.flags.overrangePos = true)
        ∨ (r.status ≠ .overrange ∧ l.high < r.value)) →
      (below ↔ (r.status = .overrange ∧ r.flags.overrangeNeg = true)
        ∨ (r.status ≠ .overrange ∧ r.value < l.low)) →
      (backA ↔ r.status ≠ .overrange ∧ r.value ≤ l.high - (l.hysteresis : Int)) →
      (backB ↔ r.status ≠ .overrange ∧ l.low + (l.hysteresis : Int) ≤ r.value) →
    (p = .unknown ∨ p = .inside →
        (above → classify l p r = .above) ∧ (¬ above → below → classify l p r = .below)
          ∧ (¬ above → ¬ below → classify l p r = .inside))
    ∧ (p = .above →
        (below → classify l p r = .below) ∧ (¬ below → backA → classify l p r = .inside)
          ∧ (¬ below → ¬ backA → classify l p r = .above))
    ∧ (p = .below →
        (above → classify l p r = .above) ∧ (¬ above → backB → classify l p r = .inside)
          ∧ (¬ above → ¬ backB → classify l p r = .below))
    ∧ (∀ t : Template, t.limits = some l → failingTemplateCheck t = none →
        l.low + (l.hysteresis : Int) ≤ l.high - (l.hysteresis : Int)
          ∧ l.low ≤ l.low + (l.hysteresis : Int) ∧ l.high - (l.hysteresis : Int) ≤ l.high)

/-- At work, WRITE_BEGIN on an ACTIVE ring with a member, no write in progress and TAIL + 1 not HEAD
forms the record of the oldest member with PHASE as its tag and, for a slot of an SQ, the SQ's HEAD,
and for an admin completion SQ0's HEAD; TAIL, PHASE and the list stand. A slot's record carries its
result, identification, range, converter and samples; an admin completion's, an event's and a
SCAN_DONE's their own fields; every other field is 0. Numbers are taken to their field's width, the
model's reading (notes/assumptions/30). (09_submission_and_completion_queues.md, section 9.6;
12_record_and_register_formats.md, section 12.2; 01_measurements_and_their_requests.md, section 1.7;
08_scan_programs_and_limit_watch.md, section 8.6; 10_administrative_commands.md, sections 10.2 and
10.7) -/
def Obligations.WriteBegins : Prop :=
  (∀ (c : Fin 8) (m : Member) (rest : List Member) (s : State), s.atWork →
      (s.cqs.look c).state = .active → (s.cqs.look c).list = m :: rest →
      (s.cqs.look c).writing = none →
      ((s.cqs.look c).tail + 1) % (s.cqs.look c).size ≠ (s.cqs.look c).head →
    ∃ t x, exec (.writeBegin c) s = .next t ∧ t.aside = s.aside ∧ slotsStand [] s t
      ∧ scansStand [] s t
      ∧ sqsStand [] s t ∧ cqsGrow [c] s t
      ∧ cqGrows { s.cqs.look c with writing := some x } (t.cqs.look c)
      ∧ x.phase = (s.cqs.look c).phase
      ∧ (∀ d, m = .admin d → x = adminRecord d (s.sqs.look 0).head (s.cqs.look c).phase)
      ∧ (∀ e, m = .event e → x = eventRecord e (s.cqs.look c).phase)
      ∧ (∀ d, m = .scanDone d → x = scanDoneRecord d (s.cqs.look c).phase)
      ∧ (∀ i r q index a, m = .slot i → s.slots.look i = some r → r.origin = .sq q index a →
          x = slotRecord r (s.sqs.look q).head (s.cqs.look c).phase)
      ∧ (∀ i r k index pass, m = .slot i → s.slots.look i = some r → r.origin = .scan k index pass →
          x = slotRecord r 0 (s.cqs.look c).phase))
  ∧ (∀ (r : SlotRec) (res : Result) (head : Nat) (phase : Bool) (x : Record),
      r.result = some res → x = slotRecord r head phase →
    x = { x with
        value := BitVec.ofInt 32 res.value, aux := BitVec.ofNat 32 res.aux,
        generation := BitVec.ofNat 16 res.generation, status := BitVec.ofNat 8 res.status.code,
        rangeUsed := BitVec.ofNat 8 r.currentRange.index,
        converterUsed := (match r.grant with
          | none => 0
          | some g => if g.conv = .ca then 1 else 2),
        samples := BitVec.ofNat 8 r.samplesDone, sqHead := BitVec.ofNat 8 head,
        limits := BitVec.ofNat 8 (res.limitNew.code + 4 * res.limitPrev.code), scanState := 0,
        phase := phase }
      ∧ (∀ q index a, r.origin = .sq q index (some a) →
          x.kind = 0 ∧ x.source = BitVec.ofNat 8 q.val ∧ x.id = a.tag ∧ x.pass = 0)
      ∧ (∀ k index pass, r.origin = .scan k index pass →
          x.kind = 1 ∧ x.source = BitVec.ofNat 8 k.val ∧ x.id = BitVec.ofNat 16 index
            ∧ x.pass = BitVec.ofNat 32 pass)
      ∧ x.flags.getLsbD 0 = res.flags.raw ∧ x.flags.getLsbD 1 = res.flags.autoranged
      ∧ x.flags.getLsbD 2 = res.flags.degraded ∧ x.flags.getLsbD 3 = res.flags.overrangePos
      ∧ x.flags.getLsbD 4 = res.flags.overrangeNeg ∧ x.flags.getLsbD 5 = res.flags.limitChange
      ∧ x.flags.getLsbD 6 = false ∧ x.flags.getLsbD 7 = false)
  ∧ (∀ (d : AdminDone) (head : Nat) (phase : Bool), adminRecord d head phase
      = { value := BitVec.ofInt 32 d.value, aux := BitVec.ofNat 32 d.aux,
          pass := BitVec.ofNat 32 d.pass, id := d.commandId, generation := 0, kind := 2, source := 0,
          status := BitVec.ofNat 8 d.status.code, flags := 0, rangeUsed := 0, converterUsed := 0,
          samples := 0, sqHead := BitVec.ofNat 8 head, limits := 0,
          scanState := BitVec.ofNat 8 d.scanState.code, phase := phase })
  ∧ (∀ (e : Event) (phase : Bool), eventRecord e phase
      = { value := BitVec.ofInt 32 e.value, aux := BitVec.ofNat 32 e.mergeCount, pass := 0, id := 0,
          generation := 0, kind := 3, source := BitVec.ofNat 8 e.object,
          status := BitVec.ofNat 8 e.kind.code, flags := 0, rangeUsed := 0, converterUsed := 0,
          samples := 0, sqHead := 0, limits := 0, scanState := 0, phase := phase })
  ∧ ∀ (d : ScanDone) (phase : Bool), scanDoneRecord d phase
      = { value := BitVec.ofNat 32 d.remaining, aux := BitVec.ofNat 32 d.overruns,
          pass := BitVec.ofNat 32 d.pass, id := 0, generation := 0, kind := 4,
          source := BitVec.ofNat 8 d.scan.val, status := BitVec.ofNat 8 d.status.code, flags := 0,
          rangeUsed := 0, converterUsed := 0, samples := 0, sqHead := 0, limits := 0, scanState := 0,
          phase := phase }

/-- A record has 32 bytes: value, aux and pass number little-endian at 0, 4 and 8, id at 12,
generation at 14, then kind, source, status, flags, range used, converter used, samples completed,
SQ head, limit states and scan state at 16 to 25, zeros at 26 to 30 and the phase tag as byte 31.
Status, event, abort detail, limit state and scan state take the codes of the format. An entry's
OPCODE is byte 0, FLAGS byte 1, TAG bytes 2-3, and the fields of a request lie at bytes 4 to 17,
with MODE 0 to 5, RANGE 0 to 3 and AUTO, APERTURE 0 to 3 and LEVEL 0 to 2 in the order of their
tables, AUTO starting on G0; a template image with LIMITS has a limit block of LOW, HIGH and
HYSTERESIS at 32, 36 and 40. (12_record_and_register_formats.md, sections 12.1 and 12.2;
05_integrating_converters.md, section 5.5) -/
def Obligations.RecordLayout : Prop :=
  (∀ r : Record, r.bytes.length = 32
    ∧ (∀ n, n < 4 → r.bytes[n]? = some (r.value.extractLsb' (8 * n) 8)
        ∧ r.bytes[4 + n]? = some (r.aux.extractLsb' (8 * n) 8)
        ∧ r.bytes[8 + n]? = some (r.pass.extractLsb' (8 * n) 8))
    ∧ (∀ n, n < 2 → r.bytes[12 + n]? = some (r.id.extractLsb' (8 * n) 8)
        ∧ r.bytes[14 + n]? = some (r.generation.extractLsb' (8 * n) 8))
    ∧ r.bytes[16]? = some r.kind ∧ r.bytes[17]? = some r.source ∧ r.bytes[18]? = some r.status
    ∧ r.bytes[19]? = some r.flags ∧ r.bytes[20]? = some r.rangeUsed
    ∧ r.bytes[21]? = some r.converterUsed ∧ r.bytes[22]? = some r.samples
    ∧ r.bytes[23]? = some r.sqHead ∧ r.bytes[24]? = some r.limits
    ∧ r.bytes[25]? = some r.scanState
    ∧ (∀ n, 26 ≤ n → n < 31 → r.bytes[n]? = some 0)
    ∧ r.bytes[31]? = some (if r.phase then 1 else 0))
  ∧ (ReqStatus.success.code = 0 ∧ ReqStatus.overrange.code = 1 ∧ ReqStatus.aborted.code = 2
    ∧ ReqStatus.invalidRequest.code = 3 ∧ ReqStatus.calInvalid.code = 4
    ∧ ReqStatus.refOutOfTolerance.code = 5)
  ∧ (AdminStatus.success.code = 0 ∧ AdminStatus.invalidOpcode.code = 1
    ∧ AdminStatus.invalidField.code = 2 ∧ AdminStatus.queueExists.code = 3
    ∧ AdminStatus.noSuchQueue.code = 4 ∧ AdminStatus.inUse.code = 5 ∧ AdminStatus.busy.code = 6
    ∧ AdminStatus.staleGeneration.code = 7 ∧ AdminStatus.verifyFailed.code = 8
    ∧ AdminStatus.supplyLow.code = 9 ∧ AdminStatus.wearLimit.code = 10
    ∧ AdminStatus.busError.code = 11)
  ∧ (ScanDoneStatus.completed.code = 0 ∧ ScanDoneStatus.stopped.code = 1)
  ∧ (EventKind.sqFetchError.code = 0 ∧ EventKind.cqWriteError.code = 1
  ∧ EventKind.badSubmit.code = 2
    ∧ EventKind.badRelease.code = 3 ∧ EventKind.converterDegraded.code = 4
    ∧ EventKind.converterRestored.code = 5 ∧ EventKind.scanTargetLost.code = 6)
  ∧ (AbortDetail.abortCmd.code = 1 ∧ AbortDetail.queueDeleted.code = 2 ∧ AbortDetail.halt.code = 3)
  ∧ (LimitState.unknown.code = 0 ∧ LimitState.inside.code = 1 ∧ LimitState.below.code = 2
    ∧ LimitState.above.code = 3)
  ∧ (ScanState.empty.code = 0 ∧ ScanState.loaded.code = 1 ∧ ScanState.running.code = 2
    ∧ ScanState.stopping.code = 3)
  ∧ (∀ g : Range, g.index = (match g with
      | .g0 => 0
      | .g1 => 1
      | .g2 => 2
      | .g3 => 3))
  ∧ ∀ (e : Entry) (n : Nat), entryByte e n = e.extractLsb' (8 * n) 8
    ∧ entryHalf e n = e.extractLsb' (8 * n) 16 ∧ entryWord e n = e.extractLsb' (8 * n) 32
    ∧ entryOpcode e = entryByte e 0 ∧ entryTag e = entryHalf e 2
    ∧ entryFlag e n = (entryByte e 1).getLsbD n
    ∧ entryRequest e
      = { opcode := entryByte e 0, mode := entryByte e 4, range := entryByte e 5,
          aperture := entryByte e 6, samples := entryByte e 7, termA := entryByte e 8,
          termB := entryByte e 9, termC := entryByte e 10, termD := entryByte e 11,
          source := entryByte e 12, level := entryByte e 13, converter := entryByte e 14,
          extraSettle := entryHalf e 16, noAutozero := (entryByte e 1).getLsbD 0,
          raw := (entryByte e 1).getLsbD 1 }
    ∧ entryTemplate e
      = { request := entryRequest e, limitState := .unknown,
          limits := if (entryByte e 1).getLsbD 3 then
              some { low := (entryWord e 32).toInt, high := (entryWord e 36).toInt,
                     hysteresis := (entryWord e 40).toNat,
                     changesOnly := (entryByte e 1).getLsbD 4 }
            else none }
  ∧ (∀ b : Byte, (termOf b).val = b.toNat % 16)
  ∧ ∀ q : Request,
      (∀ m, q.mode.toNat = (match m with
          | .voltSe => 0
          | .voltDiff => 1
          | .res2w => 2
          | .res4w => 3
          | .supply => 4
          | .ref => 5) → q.modeV = m)
      ∧ (∀ g : Range, q.range.toNat = g.index → q.startRange = g)
      ∧ (q.range.toNat = 4 → q.startRange = .g0)
      ∧ (∀ a, q.aperture.toNat = (match a with
          | .ap0 => 0
          | .ap1 => 1
          | .ap2 => 2
          | .ap3 => 3) → q.apertureV = a)
      ∧ (∀ l : Level, q.level.toNat = l.index → q.levelV = l)

/-- In READY, and in HALTING while a slot other than the written one holds the halt back,
RECORD_WRITE_DONE of a write in progress advances TAIL modulo SIZE, inverts PHASE at the wrap and
removes the member; a slot member returns to FREE, and an admin completion leaves the AX no longer
POSTING. The unsignalled count advances, or, on reaching THRESHOLD, becomes 0 with the INT_PENDING
bit set and the timer stopped; below it, a stopped timer that is not Off starts. Every scan but that
of the freed slot stands. With no write in progress nothing happens: sections 9.7 and 9.9 say so of
a write abandoned by a deletion or discard, and the model of any other (notes/assumptions/15 and 3).
(09_submission_and_completion_queues.md, sections 9.2, 9.6, 9.7, 9.8 and 9.9;
11_device_control_and_start_up.md, section 11.4) -/
def Obligations.RecordWriteCompletes : Prop :=
  ∀ (c : Fin 8) (m : Member) (rest : List Member) (x : Record) (d : Cq) (s : State),
      s.heldInReset = false →
      (s.device = .ready ∨ s.device = .halting ∧ ∃ i r, s.slots.look i = some r ∧ r.state ≠ .posting
        ∧ r.state ≠ .fenced ∧ m ≠ .slot i) →
      s.cqs.look c = d → d.list = m :: rest →
    (d.writing = some x →
      ∃ t, exec (.recordWriteDone c) s = .next t
        ∧ t.aside = { s with intPending := t.intPending }.aside
        ∧ (t.cqs.look c).tail = (d.tail + 1) % d.size
        ∧ (t.cqs.look c).phase = (if (d.tail + 1) % d.size = 0 then !d.phase else d.phase)
        ∧ rest <+: (t.cqs.look c).list ∧ (t.cqs.look c).head = d.head
        ∧ (t.cqs.look c).state = d.state ∧ (t.cqs.look c).size = d.size
        ∧ (∀ i, m = .slot i → ∀ y, t.slots.look i = some y →
            y.state = .fetching ∨ y.state = .waiting)
        ∧ (∀ i, m = .slot i → slotsStand [i] s t) ∧ ((∀ i, m ≠ .slot i) → slotsStand [] s t)
        ∧ (∀ k, (∀ i r, m = .slot i → s.slots.look i = some r → r.fromScan k = false) →
            scanStands (s.scans.look k) (t.scans.look k))
        ∧ sqsStand [] s t ∧ cqsGrow [c] s t
        ∧ (∀ a, m = .admin a → t.ax = .idle ∨ ∃ index, t.ax = .fetching index)
        ∧ (d.threshold ≤ d.unsignalled + 1 →
            (t.cqs.look c).unsignalled = 0 ∧ (t.cqs.look c).timer = none
              ∧ ∀ n, n < 8 → t.intPending.getLsbD n = (s.intPending.getLsbD n || decide (n = c.val)))
        ∧ (d.unsignalled + 1 < d.threshold →
            (t.cqs.look c).unsignalled = d.unsignalled + 1 ∧ t.intPending = s.intPending
              ∧ (t.cqs.look c).timer
                = if d.timerSetting ≠ 0 ∧ d.timer = none then some d.timerSetting else d.timer))
    ∧ (d.writing = none → ∃ t, exec (.recordWriteDone c) s = .next t ∧ t.aside = s.aside
        ∧ slotsStand [] s t ∧ scansStand [] s t ∧ sqsStand [] s t ∧ cqsGrow [] s t)

/-- In READY, or in HALTING with a slot outside the list holding the halt back, and with CQ0 ACTIVE,
a write error on CQ1-CQ7 makes the ring FAULTED with TAIL, PHASE and HEAD unchanged, its list empty,
no write in progress, the unsignalled count 0 and the timer stopped; CQ0's list takes CQ_WRITE_ERROR
with TAIL as value, and then, in increasing scan order, SCAN_TARGET_LOST with the CQ's id as value
for each scan that loses its target, each event by the merging rule; a slot of the list is freed
without a record; every RUNNING or STOPPING scan that targets the ring becomes LOADED with its
countdown stopped and no pending template, with its event, and its slots ORPHANED, and a SCAN_STOP
that waits on it ends with SUCCESS, the overrun count and the pass number. Other slots and scans
stand, and all else aside. That this completion follows its scan's own event directly is the model's
choice (notes/assumptions/18). (09_submission_and_completion_queues.md, section 9.6;
08_scan_programs_and_limit_watch.md, sections 8.7 and 8.9; 10_administrative_commands.md, section
10.7; 11_device_control_and_start_up.md, section 11.4) -/
def Obligations.CqWriteErrorFaultsTheRing : Prop :=
  ∀ (c : Fin 8) (d : Cq) (s : State), s.heldInReset = false →
      (s.device = .ready ∨ s.device = .halting ∧ ∃ i r, s.slots.look i = some r ∧ r.state ≠ .posting
        ∧ r.state ≠ .fenced ∧ Member.slot i ∉ d.list) → c ≠ 0 →
      (s.cqs.look 0).state = .active → s.cqs.look c = d → d.state = .active → d.writing.isSome = true →
    ∃ t, exec (.cqWriteBusError c) s = .next t ∧ t.aside = s.aside ∧ sqsStand [] s t
      ∧ cqsGrow [0, c] s t
      ∧ t.cqs.look c = { d with
          state := .faulted, list := [], writing := none, unsignalled := 0, timer := none }
      ∧ (∃ e, Member.event e ∈ (t.cqs.look 0).list ∧ e.kind = .cqWriteError ∧ e.object = c.val)
      ∧ (∀ (lost : Fin 8 → Bool) (cid : BitVec 16),
          (∀ k, lost k = true ↔
            ((s.scans.look k).state = .running ∨ (s.scans.look k).state = .stopping)
              ∧ (s.scans.look k).target = some c) →
          (∀ ctx, s.ax = .executing ctx → ctx.commandId = cid) →
          cqGrows
            (([0, 1, 2, 3, 4, 5, 6, 7].filter lost).foldl
              (fun b k =>
                { b.withEvent .scanTargetLost k.val c.val with
                  list := (b.withEvent .scanTargetLost k.val c.val).list
                    ++ if s.axWork = .stopping k then
                        [.admin (plainDone cid .success (s.scans.look k).overruns
                          (s.scans.look k).passNumber)]
                      else [] })
              ((s.cqs.look 0).withEvent .cqWriteError c.val d.tail))
            (t.cqs.look 0))
      ∧ (∀ k, ¬ (((s.scans.look k).state = .running ∨ (s.scans.look k).state = .stopping)
            ∧ (s.scans.look k).target = some c) →
          (∀ i r, Member.slot i ∈ d.list → s.slots.look i = some r → r.fromScan k = false) →
          scanStands (s.scans.look k) (t.scans.look k))
      ∧ (∀ k, ((s.scans.look k).state = .running ∨ (s.scans.look k).state = .stopping) →
          (s.scans.look k).target = some c →
          (t.scans.look k).state = .loaded ∧ (t.scans.look k).counting = false
            ∧ (t.scans.look k).nextTemplate = (s.scans.look k).count
            ∧ (∃ e, Member.event e ∈ (t.cqs.look 0).list ∧ e.kind = .scanTargetLost
                ∧ e.object = k.val)
            ∧ (∀ ctx, s.ax = .executing ctx → ctx.work = .stopping k →
                t.ax.isPosting = true
                  ∧ Member.admin (plainDone ctx.commandId .success (s.scans.look k).overruns
                      (s.scans.look k).passNumber) ∈ (t.cqs.look 0).list)
            ∧ ∀ i r, s.slots.look i = some r → Member.slot i ∉ d.list → r.state ≠ .fenced →
                r.fromScan k = true → t.slots.look i = some { r with orphaned := true })
      ∧ (∀ i r, s.slots.look i = some r → Member.slot i ∉ d.list → r.state ≠ .fenced →
          (∀ k, (s.scans.look k).target = some c → r.fromScan k = false) →
          t.slots.look i = some r)
      ∧ ∀ i, Member.slot i ∈ d.list → (∀ x, t.slots.look i = some x → admittedAnew t x)
          ∧ ∀ b, Member.slot i ∈ (t.cqs.look b).list → Member.slot i ∈ (s.cqs.look b).list

/-- At work, CHARGE_END with the guard HIGH begins the first pulse and changes nothing else aside.
PULSE_END advances the pulses applied, begins the verify, and moves cells of the image to the new
image only: every image bit afterwards is its old or its new value, counter and other entries
unchanged. The command in hand keeps its context through both. With the guard LOW the charge ends
the write with SUPPLY_LOW, the shadow INVALID at the counter's count. (07_calibration_store.md,
sections 7.6 and 7.7) -/
def Obligations.ChargeAndPulse : Prop :=
  ∀ (w : WriteCtx) (moved : BitVec 80) (s : State), s.atWork → s.writeCtx = some w →
    (w.phase = .charge →
      ∃ t, exec (.chargeEnd true) s = .next t
        ∧ t.aside = { s with writeCtx := some { w with phase := .pulse } }.aside
        ∧ slotsStand [] s t ∧ scansStand [] s t ∧ sqsStand [] s t ∧ cqsGrow [] s t
        ∧ (∀ ctx, s.ax = .executing ctx → ctx.work = .calWriting → t.ax = s.ax))
    ∧ (w.phase = .pulse →
      ∃ t, exec (.pulseEnd moved) s = .next t
        ∧ t.aside = { s with
            writeCtx := some { w with phase := .verify, pulses := w.pulses + 1 },
            cells := t.cells }.aside
        ∧ (∀ e, e ≠ w.entry → t.cells.look e = s.cells.look e)
        ∧ (t.cells.look w.entry).counter = (s.cells.look w.entry).counter
        ∧ (∀ n, (t.cells.look w.entry).image.wordA.getLsbD n
            = if moved.getLsbD n = true ∧ n < 32 then w.image.wordA.getLsbD n
              else (s.cells.look w.entry).image.wordA.getLsbD n)
        ∧ (∀ n, (t.cells.look w.entry).image.wordB.getLsbD n
            = if moved.getLsbD (32 + n) = true ∧ n < 32 then w.image.wordB.getLsbD n
              else (s.cells.look w.entry).image.wordB.getLsbD n)
        ∧ (∀ n, (t.cells.look w.entry).image.crc.getLsbD n
            = if moved.getLsbD (64 + n) = true ∧ n < 16 then w.image.crc.getLsbD n
              else (s.cells.look w.entry).image.crc.getLsbD n)
        ∧ slotsStand [] s t ∧ scansStand [] s t ∧ sqsStand [] s t ∧ cqsGrow [] s t
        ∧ (∀ ctx, s.ax = .executing ctx → ctx.work = .calWriting → t.ax = s.ax))
    ∧ (∀ ctx, w.phase = .charge → s.ax = .executing ctx →
        ctx.work = .calWriting → (s.cqs.look 0).state = .active →
      ∃ t, exec (.chargeEnd false) s = .next t ∧ t.writeCtx = none ∧ t.cells = s.cells
        ∧ (t.shadows.look w.entry).valid = false
        ∧ (t.shadows.look w.entry).generation = (s.cells.look w.entry).counter
        ∧ (∀ e, e ≠ w.entry → t.shadows.look e = s.shadows.look e)
        ∧ answered (plainDone ctx.commandId .supplyLow w.pulses (s.cells.look w.entry).counter) s t)

/-- At work, a verify whose image matches ends the write: the shadow takes the new words, the
counter as generation and VALID, and the completion SUCCESS with the pulses applied. One that does
not match ends it at the budget with VERIFY_FAILED, the shadow INVALID at the counter's count; below
the budget a HIGH guard begins the next pulse, with the command in hand as it stood, and a LOW one
ends it with SUPPLY_LOW. The cells are unchanged in every case. (07_calibration_store.md, sections
7.6 and 7.7) -/
def Obligations.VerifyDecidesTheWrite : Prop :=
  ∀ (w : WriteCtx) (ctx : AxCtx) (guard : Bool) (s : State), s.atWork →
      s.writeCtx = some w → w.phase = .verify → s.ax = .executing ctx →
      ctx.work = .calWriting → (s.cqs.look 0).state = .active →
    ∃ t, exec (.verifyEnd guard) s = .next t ∧ t.cells = s.cells ∧ t.frontEnd = s.frontEnd
      ∧ t.control = s.control ∧ t.templates = s.templates ∧ t.intPending = s.intPending
      ∧ slotsStand [] s t ∧ scansStand [] s t ∧ sqsStand [] s t ∧ cqsGrow [] s t
      ∧ (∀ e, e ≠ w.entry → t.shadows.look e = s.shadows.look e)
      ∧ ((s.cells.look w.entry).image = w.image →
          t.writeCtx = none
            ∧ t.shadows.look w.entry
              = { wordA := w.image.wordA, wordB := w.image.wordB,
                  generation := (s.cells.look w.entry).counter, valid := true }
            ∧ answered (plainDone ctx.commandId .success w.pulses (s.cells.look w.entry).counter) s t)
      ∧ ((s.cells.look w.entry).image ≠ w.image → w.budget ≤ w.pulses →
          t.writeCtx = none ∧ (t.shadows.look w.entry).valid = false
            ∧ (t.shadows.look w.entry).generation = (s.cells.look w.entry).counter
            ∧ answered
              (plainDone ctx.commandId .verifyFailed w.budget (s.cells.look w.entry).counter) s t)
      ∧ ((s.cells.look w.entry).image ≠ w.image → w.pulses < w.budget → guard = true →
          t.writeCtx = some { w with phase := .pulse } ∧ t.shadows = s.shadows
            ∧ t.ax = s.ax)
      ∧ ((s.cells.look w.entry).image ≠ w.image → w.pulses < w.budget → guard = false →
          t.writeCtx = none ∧ (t.shadows.look w.entry).valid = false
            ∧ (t.shadows.look w.entry).generation = (s.cells.look w.entry).counter
            ∧ answered (plainDone ctx.commandId .supplyLow w.pulses (s.cells.look w.entry).counter) s t)

/-- At work, in READY and in HALTING while a slot holds the halt back, a CAL_WRITE ends at its first
failing check and changes nothing but HEAD: INVALID_FIELD with aux 1 to 4 for the entry, the budget
code, word A and the gain, STALE_GENERATION for another expected generation, WEAR_LIMIT at 65,535,
SUPPLY_LOW with the guard LOW. Otherwise the counter steps to g + 1, the write context holds the new
image with its CRC, the budget and no pulse, in CHARGE, the command waits with its position,
COMMAND_ID and fields, and the shadow and the cells' images stand. Word A ranges over ±1,000,000 for
entries 0-7, ±12,500,000 for 14 and 15 and all values between, a gain over 2^29 to 2^31 - 1, and the
CRC takes words A and B from the least significant byte of each on, each byte from its most
significant bit on. (07_calibration_store.md, sections 7.6 and 7.7; 07_calibration_store.md, section
7.1; 07_calibration_store.md, section 7.2; 10_administrative_commands.md, sections 10.1 and 10.2) -/
def Obligations.CalWriteCommits : Prop :=
  (∀ (e : Nat) (a b : Word), e ≤ 15 →
    (wordAInRange e a = true ↔ (e ≤ 7 → -1000000 ≤ a.toInt ∧ a.toInt ≤ 1000000)
        ∧ (14 ≤ e → -12500000 ≤ a.toInt ∧ a.toInt ≤ 12500000))
      ∧ (gainInRange b = true ↔ 536870912 ≤ b.toNat ∧ b.toNat ≤ 2147483647)
      ∧ crcOf a b
        = (([a, b].flatMap fun w =>
              [w.extractLsb' 0 8, w.extractLsb' 8 8, w.extractLsb' 16 8, w.extractLsb' 24 8]).flatMap
            fun x : Byte => [7, 6, 5, 4, 3, 2, 1, 0].map x.getLsbD).foldl
          (fun (r : BitVec 16) bit =>
            if r.getLsbD 15 = bit then r <<< 1 else (r <<< 1) ^^^ 0x1021#16) 0xFFFF#16)
  ∧ ∀ (cid : BitVec 16) (entry budget : Byte) (expected : BitVec 16) (a b : Word) (guard : Bool)
      (index : Nat) (e : Fin 16) (g : Nat) (s : State), s.mayTake index →
      e = sixteenth entry.toNat → g = (s.cells.look e).counter →
    ∃ t, exec (.calWrite cid entry budget expected a b guard) s = .next t
      ∧ (15 < entry.toNat → onlyAnswered index (plainDone cid .invalidField 1 0) s t)
      ∧ (entry.toNat ≤ 15 → 3 < budget.toNat →
          onlyAnswered index (plainDone cid .invalidField 2 0) s t)
      ∧ (entry.toNat ≤ 15 → budget.toNat ≤ 3 → wordAInRange entry.toNat a = false →
          onlyAnswered index (plainDone cid .invalidField 3 0) s t)
      ∧ (entry.toNat ≤ 7 → budget.toNat ≤ 3 → wordAInRange entry.toNat a = true →
          gainInRange b = false → onlyAnswered index (plainDone cid .invalidField 4 0) s t)
      ∧ (entry.toNat ≤ 15 → budget.toNat ≤ 3 → wordAInRange entry.toNat a = true →
          (entry.toNat ≤ 7 → gainInRange b = true) →
          (expected.toNat ≠ g → onlyAnswered index (plainDone cid .staleGeneration g g) s t)
          ∧ (expected.toNat = g → 65535 ≤ g →
              onlyAnswered index (plainDone cid .wearLimit 65535 65535) s t)
          ∧ (expected.toNat = g → g < 65535 → guard = false →
              onlyAnswered index (plainDone cid .supplyLow 0 g) s t)
          ∧ (expected.toNat = g → g < 65535 → guard = true →
              t.aside = { s with
                cells := s.cells.put e { s.cells.look e with counter := g + 1 }
                writeCtx := some
                  { entry := e, budget := 4 * 2 ^ budget.toNat, pulses := 0, phase := .charge,
                    image :=
                      { wordA := a, wordB := if entry.toNat ≤ 7 then b else 0,
                        crc := crcOf a (if entry.toNat ≤ 7 then b else 0) } } }.aside
              ∧ headTaken index s t ∧ slotsStand [] s t ∧ scansStand [] s t ∧ sqsStand [0] s t
              ∧ cqsGrow [] s t
              ∧ t.ax = .executing
                { position := index, commandId := cid, cmd := .calWrite entry budget expected a b,
                  work := .calWriting }))

/-- At work, in READY and in HALTING while a slot holds the halt back, IDENTIFY and a CAL_READ of an
entry 0-15 form their record from the state at the event and wait for its DMA write with their
position, COMMAND_ID and fields kept, changing nothing but HEAD and the AX; a CAL_READ above 15 ends
with INVALID_FIELD, aux 1. The write's end completes IDENTIFY with SUCCESS and value 256, CAL_READ
with SUCCESS and the count read, either with BUS_ERROR and value 0 on a bus error, and changes
nothing else. The identity record holds the counts, the free template places, DEGRADED, the states
of scans, SQs and CQs and the shadows at their bytes, the entry image the cells' words, CRC and
count and the shadow's state; their other bytes are 0. (10_administrative_commands.md, section 10.3;
07_calibration_store.md, section 7.5; 12_record_and_register_formats.md, section 12.2;
10_administrative_commands.md, sections 10.1 and 10.2) -/
def Obligations.BufferCommands : Prop :=
  (∀ (cid : BitVec 16) (addr : Word) (entry : Byte) (index : Nat) (s : State),
    (s.mayTake index →
      ∃ t u, exec (.identify cid addr) s = .next t
        ∧ t.ax = .executing
            { position := index, commandId := cid, cmd := .identify addr,
              work := .identifyDma addr (identityRecord s) }
        ∧ headTaken index s t ∧ t.aside = s.aside ∧ slotsStand [] s t ∧ scansStand [] s t
        ∧ sqsStand [0] s t
        ∧ cqsGrow [] s t
        ∧ exec (.calRead cid entry addr) s = .next u
        ∧ (15 < entry.toNat → onlyAnswered index (plainDone cid .invalidField 1 0) s u)
        ∧ (entry.toNat ≤ 15 →
            u.ax = .executing
                { position := index, commandId := cid, cmd := .calRead entry addr,
                  work := .calReadDma addr
                    (calRecord (s.cells.look (sixteenth entry.toNat))
                      (s.shadows.look (sixteenth entry.toNat)).valid)
                    (s.cells.look (sixteenth entry.toNat)).counter }
              ∧ headTaken index s u ∧ u.aside = s.aside ∧ slotsStand [] s u ∧ scansStand [] s u
              ∧ sqsStand [0] s u
              ∧ cqsGrow [] s u))
    ∧ ∀ (ctx : AxCtx) (ok : Bool), s.atWork →
        s.ax = .executing ctx → (s.cqs.look 0).state = .active →
      (∀ a buf, ctx.work = .identifyDma a buf →
        ∃ t, exec (.identifyDmaDone ok) s = .next t ∧ t.aside = s.aside ∧ slotsStand [] s t
          ∧ scansStand [] s t
          ∧ sqsStand [] s t ∧ cqsGrow [] s t
          ∧ answered (if ok then plainDone ctx.commandId .success 0 256
              else plainDone ctx.commandId .busError 0 0) s t)
      ∧ (∀ a buf gen, ctx.work = .calReadDma a buf gen →
        ∃ t, exec (.calReadDmaDone ok) s = .next t ∧ t.aside = s.aside ∧ slotsStand [] s t
          ∧ scansStand [] s t
          ∧ sqsStand [] s t ∧ cqsGrow [] s t
          ∧ answered (if ok then plainDone ctx.commandId .success 0 gen
              else plainDone ctx.commandId .busError 0 0) s t))
  ∧ (∀ (s : State) (b : Nat → Byte), (∀ n, b n = (identityRecord s).extractLsb' (8 * n) 8) →
      [b 0, b 1, b 2, b 3] = [0x10#8, 0x42#8, 0x11#8, 0x3B#8]
        ∧ [b 4, b 5, b 6, b 7, b 8, b 9, b 10, b 11, b 12]
          = [16#8, 2#8, 2#8, 16#8, 8#8, 8#8, 8#8, 16#8, 128#8]
        ∧ b 13 = BitVec.ofNat 8 (128 - (allEight.map fun k => (s.scans.look k).count).sum)
        ∧ (b 14).getLsbD 0 = s.convs.ca.degraded ∧ (b 14).getLsbD 1 = s.convs.cb.degraded
        ∧ (∀ n, 2 ≤ n → (b 14).getLsbD n = false) ∧ b 15 = 0
        ∧ (∀ k : Fin 8, b (16 + k.val) = BitVec.ofNat 8 (s.scans.look k).state.code
            ∧ b (24 + k.val) = (match (s.sqs.look k).state with
              | .absent => 0
              | .active => 1
              | .faulted => 2
              | .deleting => 3)
            ∧ b (32 + k.val) = (match (s.cqs.look k).state with
              | .absent => 0
              | .active => 1
              | .faulted => 2))
        ∧ (∀ e : Fin 16,
            b (40 + 4 * e.val) = BitVec.ofNat 8 (s.shadows.look e).generation
              ∧ b (41 + 4 * e.val) = BitVec.ofNat 8 ((s.shadows.look e).generation / 256)
              ∧ b (42 + 4 * e.val) = (if (s.shadows.look e).valid then 1 else 0)
              ∧ b (43 + 4 * e.val) = 0)
        ∧ ∀ n, 104 ≤ n → b n = 0)
  ∧ ∀ (c : Cell) (valid : Bool) (b : Nat → Byte),
      (∀ n, b n = (calRecord c valid).extractLsb' (8 * n) 8) →
      (∀ n, n < 4 → b n = c.image.wordA.extractLsb' (8 * n) 8
          ∧ b (4 + n) = c.image.wordB.extractLsb' (8 * n) 8)
        ∧ b 8 = c.image.crc.extractLsb' 0 8 ∧ b 9 = c.image.crc.extractLsb' 8 8
        ∧ b 10 = BitVec.ofNat 8 c.counter ∧ b 11 = BitVec.ofNat 8 (c.counter / 256)
        ∧ b 12 = (if valid then 1 else 0) ∧ ∀ n, 13 ≤ n → b n = 0

/-- In READY, ADMIN_FETCH_START with the AX IDLE and SQ0 ACTIVE and not empty begins a fetch at
HEAD. A read whose position the tail has moved onto leaves the AX no command and SQ0 unchanged.
Otherwise the fetch's end with an entry is the command that the entry's OPCODE names, each of the
twelve OPCODEs its own command with the fields at their bytes; an OPCODE that names none ends with
INVALID_OPCODE and changes nothing but HEAD. (10_administrative_commands.md, sections 10.1 and 10.2;
12_record_and_register_formats.md, section 12.1) -/
def Obligations.AdminFetch : Prop :=
  ∀ (entry : Entry) (guard : Bool) (s : State),
    (s.heldInReset = false → s.device = .ready → s.ax = .idle → (s.sqs.look 0).state = .active →
        (s.sqs.look 0).head ≠ (s.sqs.look 0).tail →
      ∃ t, exec .adminFetchStart s = .next t ∧ t.ax = .fetching (s.sqs.look 0).head
        ∧ t.aside = s.aside ∧ slotsStand [] s t ∧ scansStand [] s t ∧ sqsStand [] s t
        ∧ cqsGrow [] s t)
    ∧ (s.atWork → s.ax = .fetching (s.sqs.look 0).tail →
        (s.sqs.look 0).state = .active →
      ∃ t, exec (.adminFetchDone entry guard) s = .next t
        ∧ (t.ax = .idle ∨ ∃ index, t.ax = .fetching index) ∧ sqsStand [] s t ∧ cqsGrow [] s t
        ∧ t.aside = s.aside ∧ slotsStand [] s t ∧ scansStand [] s t)
    ∧ (∀ cmd : Instr,
        (entryOpcode entry = 0x10#8 ∧ cmd = .identify (entryHalf entry 2) (entryWord entry 8))
          ∨ (entryOpcode entry = 0x11#8 ∧ cmd = .createCq (entryHalf entry 2) (entryByte entry 4)
              (entryWord entry 8) (entryHalf entry 12) ((entryByte entry 5).getLsbD 0)
              (entryByte entry 6) (entryByte entry 7))
          ∨ (entryOpcode entry = 0x12#8 ∧ cmd = .deleteCq (entryHalf entry 2) (entryByte entry 4))
          ∨ (entryOpcode entry = 0x13#8 ∧ cmd = .createSq (entryHalf entry 2) (entryByte entry 4)
              (entryWord entry 8) (entryHalf entry 12) (entryByte entry 5) (entryByte entry 6)
              (entryByte entry 7))
          ∨ (entryOpcode entry = 0x14#8 ∧ cmd = .deleteSq (entryHalf entry 2) (entryByte entry 4))
          ∨ (entryOpcode entry = 0x15#8 ∧ cmd = .abort (entryHalf entry 2) (entryByte entry 4)
              (entryByte entry 5) (entryHalf entry 6))
          ∨ (entryOpcode entry = 0x16#8 ∧ cmd = .calRead (entryHalf entry 2) (entryByte entry 4)
              (entryWord entry 8))
          ∨ (entryOpcode entry = 0x17#8 ∧ cmd = .calWrite (entryHalf entry 2) (entryByte entry 4)
              (entryByte entry 5) (entryHalf entry 6) (entryWord entry 8) (entryWord entry 12) guard)
          ∨ (entryOpcode entry = 0x18#8 ∧ cmd = .scanLoad (entryHalf entry 2) (entryByte entry 4)
              (entryByte entry 5) (entryWord entry 8))
          ∨ (entryOpcode entry = 0x19#8 ∧ cmd = .scanStart (entryHalf entry 2) (entryByte entry 4)
              (entryHalf entry 8) (entryHalf entry 10) (entryByte entry 5) (entryByte entry 6)
              (entryByte entry 7))
          ∨ (entryOpcode entry = 0x1A#8 ∧ cmd = .scanStop (entryHalf entry 2) (entryByte entry 4))
          ∨ (entryOpcode entry = 0x1B#8
              ∧ cmd = .scanStatus (entryHalf entry 2) (entryByte entry 4)) →
        ∃ t, exec (.adminFetchDone entry guard) s = .next t ∧ exec cmd s = .next t)
    ∧ ∀ (cid : BitVec 16) (opcode : Byte) (index : Nat), s.mayTake index →
        opcode.toNat < 16 ∨ 27 < opcode.toNat →
      ∃ t, exec (.invalidOpcode cid opcode) s = .next t
        ∧ onlyAnswered index (plainDone cid .invalidOpcode 0 0) s t
        ∧ (entryOpcode entry = opcode → entryHalf entry 2 = cid →
            exec (.adminFetchDone entry guard) s = .next t)

/-- A CREATE_CQ or CREATE_SQ in READY whose ring is NONE and whose fields lie in their ranges (for
CREATE_SQ, with its bound CQ ACTIVE) makes the ring ACTIVE with the fields of the command, indices
and counter 0, PHASE 1, its list beginning empty and the INT_PENDING bit 0, and ends with SUCCESS.
Otherwise it ends at its first failing check, and nothing changes but HEAD: INVALID_FIELD, aux 1,
for an id outside 1-7; BUSY in HALTING; QUEUE_EXISTS, aux 1, for a ring that exists; INVALID_FIELD
with aux 2 for BASE, 3 for SIZE, and for CREATE_CQ 5 for THRESHOLD, for CREATE_SQ 4 for BOUND_CQ, 5
for CLASS and 6 for IN_FLIGHT_LIMIT; NO_SUCH_QUEUE, aux 4, for a bound CQ that is not ACTIVE.
(10_administrative_commands.md, sections 10.2, 10.4 and 10.5;
09_submission_and_completion_queues.md, sections 9.1, 9.2 and 9.8) -/
def Obligations.CreateRings : Prop :=
  ∀ (cid : BitVec 16) (id : Byte) (base : Word) (size : BitVec 16) (ie : Bool)
      (threshold timer bound cls limit : Byte) (index : Nat) (s : State), s.mayTake index →
    ∃ t u, exec (.createCq cid id base size ie threshold timer) s = .next t
      ∧ exec (.createSq cid id base size bound cls limit) s = .next u
      ∧ (id.toNat = 0 ∨ 7 < id.toNat → onlyAnswered index (plainDone cid .invalidField 1 0) s t
          ∧ onlyAnswered index (plainDone cid .invalidField 1 0) s u)
      ∧ (1 ≤ id.toNat → id.toNat ≤ 7 → s.device = .halting →
          onlyAnswered index (plainDone cid .busy 0 0) s t
            ∧ onlyAnswered index (plainDone cid .busy 0 0) s u)
      ∧ (1 ≤ id.toNat → id.toNat ≤ 7 → s.device = .ready →
        ((s.cqs.look (eighth id.toNat)).state ≠ .absent →
            onlyAnswered index (plainDone cid .queueExists 1 0) s t)
        ∧ ((s.sqs.look (eighth id.toNat)).state ≠ .absent →
            onlyAnswered index (plainDone cid .queueExists 1 0) s u)
        ∧ ((s.cqs.look (eighth id.toNat)).state = .absent →
          (base.toNat % 32 ≠ 0 ∨ 2 ^ 32 < base.toNat + 32 * size.toNat →
              onlyAnswered index (plainDone cid .invalidField 2 0) s t)
          ∧ (base.toNat % 32 = 0 → base.toNat + 32 * size.toNat ≤ 2 ^ 32 →
            (size.toNat < 2 ∨ 256 < size.toNat →
                onlyAnswered index (plainDone cid .invalidField 3 0) s t)
            ∧ (2 ≤ size.toNat → size.toNat ≤ 256 →
              (threshold.toNat = 0 ∨ 64 < threshold.toNat →
                  onlyAnswered index (plainDone cid .invalidField 5 0) s t)
              ∧ (1 ≤ threshold.toNat → threshold.toNat ≤ 64 →
                answered (plainDone cid .success 0 0) s t ∧ headTaken index s t
                  ∧ cqGrows
                    { state := .active, base := base, size := size.toNat, tail := 0, head := 0,
                      phase := true, list := [], writing := none, intEnable := ie,
                      threshold := threshold.toNat, timerSetting := timer.toNat, unsignalled := 0,
                      timer := none }
                    (t.cqs.look (eighth id.toNat))
                  ∧ t.aside = { s with intPending := t.intPending }.aside
                  ∧ (∀ n, n < 8 → t.intPending.getLsbD n
                      = (s.intPending.getLsbD n && decide (n ≠ id.toNat)))
                  ∧ slotsStand [] s t ∧ scansStand [] s t ∧ sqsStand [0] s t
                  ∧ cqsGrow [eighth id.toNat] s t))))
        ∧ ((s.sqs.look (eighth id.toNat)).state = .absent →
          (base.toNat % 64 ≠ 0 ∨ 2 ^ 32 < base.toNat + 64 * size.toNat →
              onlyAnswered index (plainDone cid .invalidField 2 0) s u)
          ∧ (base.toNat % 64 = 0 → base.toNat + 64 * size.toNat ≤ 2 ^ 32 →
            (size.toNat < 2 ∨ 256 < size.toNat →
                onlyAnswered index (plainDone cid .invalidField 3 0) s u)
            ∧ (2 ≤ size.toNat → size.toNat ≤ 256 →
              (bound.toNat = 0 ∨ 7 < bound.toNat →
                  onlyAnswered index (plainDone cid .invalidField 4 0) s u)
              ∧ (1 ≤ bound.toNat → bound.toNat ≤ 7 →
                (3 < cls.toNat → onlyAnswered index (plainDone cid .invalidField 5 0) s u)
                ∧ (cls.toNat ≤ 3 →
                  (limit.toNat = 0 ∨ 16 < limit.toNat →
                      onlyAnswered index (plainDone cid .invalidField 6 0) s u)
                  ∧ (1 ≤ limit.toNat → limit.toNat ≤ 16 →
                    ((s.cqs.look (eighth bound.toNat)).state ≠ .active →
                        onlyAnswered index (plainDone cid .noSuchQueue 4 0) s u)
                    ∧ ((s.cqs.look (eighth bound.toNat)).state = .active →
                      answered (plainDone cid .success 0 0) s u ∧ headTaken index s u
                        ∧ u.sqs.look (eighth id.toNat)
                          = { state := .active, base := base, size := size.toNat, head := 0,
                              tail := 0, boundCq := eighth bound.toNat,
                              cls := classOf cls.toNat, limit := limit.toNat, seq := 0 }
                        ∧ u.aside = s.aside ∧ slotsStand [] s u ∧ scansStand [] s u
                        ∧ sqsStand [0, eighth id.toNat] s u
                        ∧ cqsGrow [] s u))))))))

/-- In READY, and in HALTING while a slot outside its list holds the halt back, DELETE_CQ of a CQ
that no SQ is bound to and no RUNNING or STOPPING scan targets makes it NONE, clears its INT_PENDING
bit alone, discards its members, freeing a slot among them without a record, with every scan that
has none among them standing, and ends with SUCCESS and their number. With an SQ bound it ends with
IN_USE and the lowest such SQ, with a scan alone IN_USE and 8 + the lowest such scan, with the CQ
NONE NO_SUCH_QUEUE, with an id outside 1-7 INVALID_FIELD, and nothing changes but HEAD. That every
field of the deleted ring is then 0 is the model's choice (notes/assumptions/10).
(10_administrative_commands.md, section 10.4; 09_submission_and_completion_queues.md, section 9.7;
10_administrative_commands.md, section 10.2) -/
def Obligations.DeleteCq : Prop :=
  ∀ (cid : BitVec 16) (id : Byte) (c : Fin 8) (index : Nat) (s : State), s.mayTake index →
      c = eighth id.toNat →
    ∃ t, exec (.deleteCq cid id) s = .next t
      ∧ (id.toNat = 0 ∨ 7 < id.toNat → onlyAnswered index (plainDone cid .invalidField 1 0) s t)
      ∧ (1 ≤ id.toNat → id.toNat ≤ 7 → (s.cqs.look c).state = .absent →
          onlyAnswered index (plainDone cid .noSuchQueue 1 0) s t)
      ∧ (1 ≤ id.toNat → id.toNat ≤ 7 → (s.cqs.look c).state ≠ .absent →
        (∀ q, (s.sqs.look q).state ≠ .absent → (s.sqs.look q).boundCq = c →
          (∀ p, p < q → ¬ ((s.sqs.look p).state ≠ .absent ∧ (s.sqs.look p).boundCq = c)) →
          onlyAnswered index (plainDone cid .inUse q.val 0) s t)
        ∧ ((∀ q, ¬ ((s.sqs.look q).state ≠ .absent ∧ (s.sqs.look q).boundCq = c)) →
          (∀ k, (((s.scans.look k).state = .running ∨ (s.scans.look k).state = .stopping)
                ∧ (s.scans.look k).target = some c) →
              (∀ j, j < k → ¬ (((s.scans.look j).state = .running ∨ (s.scans.look j).state = .stopping)
                ∧ (s.scans.look j).target = some c)) →
              onlyAnswered index (plainDone cid .inUse (8 + k.val) 0) s t)
          ∧ ((∀ k, ¬ (((s.scans.look k).state = .running ∨ (s.scans.look k).state = .stopping)
                ∧ (s.scans.look k).target = some c)) →
              (s.device = .ready ∨ ∃ i r, s.slots.look i = some r ∧ r.state ≠ .posting
                ∧ r.state ≠ .fenced ∧ Member.slot i ∉ (s.cqs.look c).list) →
              answered (plainDone cid .success (s.cqs.look c).list.length 0) s t
                ∧ headTaken index s t ∧ t.cqs.look c = Cq.gone
                ∧ t.aside = { s with intPending := t.intPending }.aside
                ∧ (∀ n, n < 8 → t.intPending.getLsbD n
                    = (s.intPending.getLsbD n && decide (n ≠ c.val)))
                ∧ (∀ i r, s.slots.look i = some r → Member.slot i ∉ (s.cqs.look c).list →
                    r.state ≠ .fenced → t.slots.look i = some r)
                ∧ (∀ i, Member.slot i ∈ (s.cqs.look c).list → freed i s t)
                ∧ (∀ k, (∀ i r, Member.slot i ∈ (s.cqs.look c).list → s.slots.look i = some r →
                      r.fromScan k = false) →
                    scanStands (s.scans.look k) (t.scans.look k))
                ∧ sqsStand [0] s t ∧ cqsGrow [c] s t)))

/-- In READY, and in HALTING while a slot in FETCHING or CORRECTING, or in CONVERTING of another
source, holds the halt back, DELETE_SQ aborts every slot of the SQ by its state with detail
QUEUE_DELETED; other slots and converters stand, and every scan. The SQ becomes DELETING, with every
other field kept, and the command keeps its context and the number of slots aborted while a slot
remains, such as one in CORRECTING, which stands; else it becomes NONE and the command ends with
SUCCESS, that number as aux, 0 without slots, and its HEAD as value. An SQ in NONE ends it with
NO_SUCH_QUEUE and an id outside 1-7 with INVALID_FIELD, both with aux 1. DELETE_SQ_END of a DELETING
SQ whose command waits and which holds no slot makes it NONE and ends the command with the count
kept and its HEAD. That every field of the deleted ring is then 0, and SUM 0 after a cut, are the
model's choices (notes/assumptions/10 and 25), and so is the examination that the cut of a SUPPLY or
REF slot makes due (notes/assumptions/35). (10_administrative_commands.md, section 10.5;
02_the_request_table.md, sections 2.7, 2.8 and 2.9;
03_claims_on_terminals_sources_and_converters.md, section 3.5; 05_integrating_converters.md, section
5.6; 10_administrative_commands.md, sections 10.1 and 10.2) -/
def Obligations.DeleteSq : Prop :=
  ∀ (cid : BitVec 16) (id : Byte) (q : Fin 8) (index : Nat) (s : State), q = eighth id.toNat →
    (s.mayTake index →
      ∃ t, exec (.deleteSq cid id) s = .next t
        ∧ (id.toNat = 0 ∨ 7 < id.toNat → onlyAnswered index (plainDone cid .invalidField 1 0) s t)
        ∧ (1 ≤ id.toNat → id.toNat ≤ 7 → (s.sqs.look q).state = .absent →
            onlyAnswered index (plainDone cid .noSuchQueue 1 0) s t)
        ∧ (1 ≤ id.toNat → id.toNat ≤ 7 → (s.sqs.look q).state ≠ .absent →
          (s.device = .ready ∨ ∃ i r, s.slots.look i = some r ∧ (r.state = .fetching
            ∨ r.state = .correcting ∨ r.fromSq q = false ∧ r.state ≠ .posting
              ∧ r.state ≠ .fenced)) →
          headTaken index s t ∧ t.store = s.store
            ∧ t.control = s.control ∧ t.templates = s.templates ∧ t.intPending = s.intPending
            ∧ scansStand [] s t
            ∧ ((∀ i r, s.slots.look i = some r → r.fromSq q = false) →
                t.sqs.look q = Sq.gone ∧ t.frontEnd = s.frontEnd ∧ slotsStand [] s t
                  ∧ scansStand [] s t
                  ∧ sqsStand [0, q] s t ∧ cqsGrow [] s t
                  ∧ answered (plainDone cid .success 0 (s.sqs.look q).head) s t)
            ∧ (∀ i r, s.slots.look i = some r → r.fromSq q = true → r.state = .correcting →
                t.sqs.look q = { s.sqs.look q with state := .deleting } ∧ t.slots.look i = some r
                  ∧ ∃ n, t.ax = .executing
                    { position := index, commandId := cid, cmd := .deleteSq id, work := .deleting q n })
            ∧ (AgeLaw s → sqsStand [0, q] s t ∧ cqsGrow [] s t
              ∧ (∀ i r, s.slots.look i = some r → r.fromSq q = true →
                  abortOutcome .queueDeleted i r s t)
              ∧ (∀ i r, s.slots.look i = some r → r.fromSq q = false → r.state ≠ .fenced →
                  t.slots.look i = some r)
              ∧ otherConvertersStand (fun r => r.fromSq q = true
                  ∧ (r.state = .settling ∨ r.state = .converting)) s t
              ∧ ∀ n, n = s.countSlots (fun r => r.fromSq q && r.abortCounts) →
                ((∃ i r, s.slots.look i = some r ∧ r.fromSq q = true
                    ∧ (s.receives r ∨ r.state = .fetching ∨ r.state = .correcting
                      ∨ r.state = .posting)) →
                  t.sqs.look q = { s.sqs.look q with state := .deleting }
                    ∧ t.ax = .executing
                    { position := index, commandId := cid, cmd := .deleteSq id, work := .deleting q n })
                ∧ ((∀ i r, s.slots.look i = some r → r.fromSq q = true → ¬ s.receives r
                    ∧ (r.state = .waiting ∨ r.state = .settling ∨ r.state = .converting)) →
                  t.sqs.look q = Sq.gone
                    ∧ answered (plainDone cid .success n (s.sqs.look q).head) s t))))
    ∧ ∀ (ctx : AxCtx) (n : Nat), s.atWork → s.ax = .executing ctx →
        ctx.work = .deleting q n → (s.sqs.look q).state = .deleting → (s.cqs.look 0).state = .active →
        (∀ i r, s.slots.look i = some r → r.fromSq q = false) →
      ∃ t, exec .deleteSqEnd s = .next t ∧ t.sqs.look q = Sq.gone ∧ t.aside = s.aside
        ∧ slotsStand [] s t ∧ scansStand [] s t ∧ sqsStand [q] s t ∧ cqsGrow [] s t
        ∧ answered (plainDone ctx.commandId .success n (s.sqs.look q).head) s t

/-- ABORT ends with INVALID_FIELD, aux 1, for an id outside 1-7 and aux 2 for a SELECT above 1, and
with NO_SUCH_QUEUE, aux 1, for an SQ in NONE, and changes nothing but HEAD. Else, in READY, and in
HALTING while a slot in FETCHING or CORRECTING, or one it does not reach in CONVERTING, holds the
halt back, it reaches the slots of the SQ that hold the TAG, FETCHING ones apart, or with ALL every
slot of it: from WAITING a slot is posted ABORTED without a converter; from SETTLING or CONVERTING
it is posted ABORTED, its converter in RECOVERY for 1 ms, held by RECOVERY on its range, its
connections at REST and its source OFF and free; a FETCHING slot records the abort, a FENCED MARK
takes ABORTED unless it holds it, and CORRECTING and POSTING slots stand. It ends with SUCCESS and
the number it aborted. Slots of other SQs, scans, store and templates stand, and the cases of one
selected slot and of none are stated apart as well, for READY. SUM standing at 0 after a cut, and
the examination that the cut of a SUPPLY or REF slot makes due, are the model's choices
(notes/assumptions/25 and 35). (10_administrative_commands.md, section 10.6;
02_the_request_table.md, sections 2.7, 2.8 and 2.9;
03_claims_on_terminals_sources_and_converters.md, section 3.5; 05_integrating_converters.md, section
5.6; 10_administrative_commands.md, section 10.2) -/
def Obligations.AbortReachesTheSlot : Prop :=
  (∀ (cid : BitVec 16) (id : Byte) (q : Fin 8) (tag : BitVec 16) (index : Nat) (s : State),
      s.mayTake index → s.device = .ready → id.toNat = q.val → q ≠ 0 →
      (s.sqs.look q).state ≠ .absent → AgeLaw s →
    ((∀ i r position a, s.slots.look i = some r → r.origin = .sq q position (some a) →
        r.state ≠ .fetching → a.tag ≠ tag) →
      ∃ t, exec (.abort cid id 0 tag) s = .next t
        ∧ onlyAnswered index (plainDone cid .success 0 0) s t)
    ∧ (∀ i r position a, s.slots.look i = some r → r.origin = .sq q position (some a) → a.tag = tag →
        (∀ j x p b, j ≠ i → s.slots.look j = some x → x.origin = .sq q p (some b) → b.tag ≠ tag) →
        (s.cqs.look r.targetCq).state = .active → r.targetCq ≠ 0 → r.orphaned = false →
      (r.state = .correcting →
        ∃ t, exec (.abort cid id 0 tag) s = .next t
          ∧ onlyAnswered index (plainDone cid .success 0 0) s t)
      ∧ ∀ res,
        res =
          { value := 0, status := .aborted, aux := 1, generation := 0, flags := RecFlags.clear,
            limitNew := .unknown, limitPrev := .unknown } →
        (r.state = .waiting →
          ∃ t, exec (.abort cid id 0 tag) s = .next t ∧ headTaken index s t ∧ t.aside = s.aside
            ∧ t.slots.look i = some { r with state := .posting, blocking := false, result := some res }
            ∧ (s.cqs.look r.targetCq).list ++ [.slot i] <+: (t.cqs.look r.targetCq).list
            ∧ t.examDue = true ∧ answered (plainDone cid .success 1 0) s t
            ∧ slotsStand [i] s t ∧ scansStand [] s t ∧ sqsStand [0] s t ∧ cqsGrow [] s t)
        ∧ ∀ g, r.grant = some g → r.state = .settling ∨ r.state = .converting →
          ∃ t n, exec (.abort cid id 0 tag) s = .next t ∧ headTaken index s t
            ∧ t.slots.look i = some { r with state := .posting, sum := 0, result := some res }
            ∧ (s.cqs.look r.targetCq).list ++ [.slot i] <+: (t.cqs.look r.targetCq).list
            ∧ t.convs.look g.conv = { s.convs.look g.conv with
                state := .recovery, phaseTimer := some 1000, serving := .nothing, counter := n }
            ∧ t.convClaims.look g.conv = .recovery ∧ t.conns.look g.conv = ConnSet.rest
            ∧ (∀ x, g.source = some x → t.sourceClaims.look x = none ∧ t.sources.look x = .off)
            ∧ t.examDue = true ∧ answered (plainDone cid .success 1 0) s t
            ∧ t.control = s.control ∧ t.store = s.store ∧ t.templates = s.templates
            ∧ t.intPending = s.intPending
            ∧ slotsStand [i] s t ∧ scansStand [] s t ∧ sqsStand [0] s t ∧ cqsGrow [] s t)
    ∧ ∃ t, exec (.abort cid id 1 tag) s = .next t ∧ headTaken index s t
        ∧ t.control = s.control ∧ t.store = s.store ∧ t.templates = s.templates
        ∧ t.intPending = s.intPending ∧ sqsStand [0] s t ∧ scansStand [] s t
        ∧ (∀ i r, s.slots.look i = some r → r.fromSq q = true → r.state = .fetching →
            t.slots.look i = some { r with pendingAbort := some (r.pendingAbort.getD .abortCmd) })
        ∧ ∀ i r, s.slots.look i = some r → r.fromSq q = false → r.state ≠ .fenced →
            t.slots.look i = some r)
  ∧ ∀ (cid : BitVec 16) (id select : Byte) (q : Fin 8) (tag : BitVec 16) (index : Nat) (s : State),
      s.mayTake index → q = eighth id.toNat →
    ∃ t, exec (.abort cid id select tag) s = .next t
      ∧ (id.toNat = 0 ∨ 7 < id.toNat → onlyAnswered index (plainDone cid .invalidField 1 0) s t)
      ∧ (1 ≤ id.toNat → id.toNat ≤ 7 →
        (1 < select.toNat → onlyAnswered index (plainDone cid .invalidField 2 0) s t)
        ∧ (select.toNat ≤ 1 → (s.sqs.look q).state = .absent →
            onlyAnswered index (plainDone cid .noSuchQueue 1 0) s t)
        ∧ ∀ reached : SlotRec → Bool,
            (∀ r, reached r = true ↔ ∃ position a, r.origin = .sq q position a
              ∧ (select.toNat = 1 ∨ r.state ≠ .fetching ∧ ∃ x, a = some x ∧ x.tag = tag)) →
            select.toNat ≤ 1 → (s.sqs.look q).state ≠ .absent → AgeLaw s →
            (s.device = .ready ∨ ∃ i r, s.slots.look i = some r ∧ (r.state = .fetching
              ∨ r.state = .correcting
              ∨ reached r = false ∧ r.state ≠ .posting ∧ r.state ≠ .fenced)) →
          headTaken index s t ∧ t.control = s.control ∧ t.store = s.store
            ∧ t.templates = s.templates ∧ t.intPending = s.intPending ∧ sqsStand [0] s t
            ∧ cqsGrow [] s t ∧ scansStand [] s t
            ∧ (∀ i r, s.slots.look i = some r → reached r = true → abortOutcome .abortCmd i r s t)
            ∧ (∀ i r, s.slots.look i = some r → reached r = false → r.state ≠ .fenced →
                t.slots.look i = some r)
            ∧ otherConvertersStand (fun r => reached r = true
                ∧ (r.state = .settling ∨ r.state = .converting)) s t
            ∧ ((∀ i r, s.slots.look i = some r → reached r = true → r.targetCq ≠ 0) →
                answered (plainDone cid .success
                  (s.countSlots fun r => reached r && r.abortCounts) 0) s t))

/-- At work, in READY and in HALTING while a slot holds the halt back, SCAN_LOAD ends with
INVALID_FIELD for its id, a COUNT above 32 or too few free places, with BUSY for a scan that is
RUNNING or STOPPING or has a slot, and empties the scan at COUNT 0; else it waits for its DMA read
with its position, COMMAND_ID and fields kept. The read's end with a bus error ends it with
BUS_ERROR, with a template that fails INVALID_FIELD with that index and check, and leaves the
program as it was; otherwise the scan is LOADED with the templates read, in state UNKNOWN, and its
period, pass limit, target, class, in-flight limit, pass number, overrun count and countdown as they
were, as an emptied scan's are; every other scan stands with its own, at the places that the
repacking gives them. (08_scan_programs_and_limit_watch.md, sections 8.1 and 8.3;
01_measurements_and_their_requests.md, section 1.6; 10_administrative_commands.md, sections 10.1 and
10.2) -/
def Obligations.ScanLoad : Prop :=
  (∀ (cid : BitVec 16) (scan count : Byte) (addr : Word) (k : Fin 8) (index : Nat) (s : State),
      s.mayTake index → ScanLaw s → k = eighth scan.toNat →
    ∃ t, exec (.scanLoad cid scan count addr) s = .next t
      ∧ (7 < scan.toNat → onlyAnswered index (plainDone cid .invalidField 1 0) s t)
      ∧ (scan.toNat ≤ 7 → 32 < count.toNat →
          onlyAnswered index (plainDone cid .invalidField 2 0) s t)
      ∧ (scan.toNat ≤ 7 → count.toNat ≤ 32 →
          ((s.scans.look k).state = .running ∨ (s.scans.look k).state = .stopping
            ∨ (∃ i r, s.slots.look i = some r ∧ r.fromScan k = true) →
            onlyAnswered index (plainDone cid .busy 0 0) s t)
          ∧ ((s.scans.look k).state = .empty ∨ (s.scans.look k).state = .loaded →
            (∀ i r, s.slots.look i = some r → r.fromScan k = false) →
            (128 + (s.scans.look k).count < s.templates.length + count.toNat →
              onlyAnswered index (plainDone cid .invalidField 2 0) s t)
            ∧ (count.toNat = 0 →
              answered (plainDone cid .success 0 0) s t ∧ headTaken index s t
                ∧ t.scans.look k = { s.scans.look k with
                    state := .empty, first := (t.scans.look k).first, count := 0,
                    nextTemplate := (t.scans.look k).nextTemplate }
                ∧ (∀ j, j ≠ k → scanStands { s.scans.look j with first := (t.scans.look j).first }
                      (t.scans.look j)
                    ∧ ∀ p, p < (s.scans.look j).count → t.templates[(t.scans.look j).first + p]?
                        = s.templates[(s.scans.look j).first + p]?)
                ∧ t.control = s.control ∧ t.frontEnd = s.frontEnd ∧ t.store = s.store
                ∧ t.intPending = s.intPending
                ∧ slotsStand [] s t ∧ sqsStand [0] s t ∧ cqsGrow [] s t)
            ∧ (1 ≤ count.toNat → s.templates.length + count.toNat ≤ 128 + (s.scans.look k).count →
              t.ax = .executing
                  { position := index, commandId := cid, cmd := .scanLoad scan count addr,
                    work := .scanLoadDma k count.toNat addr }
                ∧ headTaken index s t ∧ t.aside = s.aside
                ∧ t.scans.look k = s.scans.look k ∧ scansStand [] s t
                ∧ slotsStand [] s t ∧ sqsStand [0] s t ∧ cqsGrow [] s t))))
  ∧ ∀ (k : Fin 8) (n : Nat) (addr : Word) (ctx : AxCtx) (s : State), s.atWork →
      ScanLaw s → s.ax = .executing ctx → ctx.work = .scanLoadDma k n addr →
      (s.cqs.look 0).state = .active → 1 ≤ n →
    (∃ t, exec (.scanLoadDmaDone none) s = .next t ∧ t.aside = s.aside ∧ slotsStand [] s t
        ∧ sqsStand [] s t ∧ cqsGrow [] s t ∧ t.scans.look k = s.scans.look k ∧ scansStand [] s t
        ∧ answered (plainDone ctx.commandId .busError 0 0) s t)
    ∧ ∀ es : List Entry, es.length = n →
      ∃ t, exec (.scanLoadDmaDone (some es)) s = .next t ∧ slotsStand [] s t
        ∧ sqsStand [] s t ∧ cqsGrow [] s t ∧ t.control = s.control ∧ t.frontEnd = s.frontEnd
        ∧ t.store = s.store ∧ t.intPending = s.intPending
        ∧ (∀ i e check, es[i]? = some e → failingTemplateCheck (entryTemplate e) = some check →
            (∀ j f, j < i → es[j]? = some f → failingTemplateCheck (entryTemplate f) = none) →
            t.templates = s.templates ∧ t.scans.look k = s.scans.look k ∧ scansStand [] s t
              ∧ answered (plainDone ctx.commandId .invalidField i check) s t)
        ∧ ((∀ e, e ∈ es → failingTemplateCheck (entryTemplate e) = none) →
            t.scans.look k = { s.scans.look k with
                state := .loaded, first := (t.scans.look k).first, count := n,
                nextTemplate := (t.scans.look k).nextTemplate }
              ∧ (∀ e, e ∈ es → (entryTemplate e).limitState = .unknown)
              ∧ (∀ p, p < n → t.templates[(t.scans.look k).first + p]? = (es[p]?).map entryTemplate)
              ∧ (∀ j, j ≠ k → scanStands { s.scans.look j with first := (t.scans.look j).first }
                  (t.scans.look j)
                ∧ ∀ p, p < (s.scans.look j).count → t.templates[(t.scans.look j).first + p]?
                    = s.templates[(s.scans.look j).first + p]?)
              ∧ answered (plainDone ctx.commandId .success 0 n) s t)

/-- In READY, SCAN_START of a LOADED scan without slots, with its fields in their ranges and its
target CQ ACTIVE, makes it RUNNING with the fields of the command, pass number 1, overrun count 0, a
limited run one pass shorter and its countdown at PERIOD, its templates pending from the first but
for those that OUTSTANDING counts as admitted within the event, sets the LIMIT STATE of its
templates to UNKNOWN, and ends with SUCCESS; other scans stand. At work, in READY or HALTING while a
slot holds the halt back, it ends with INVALID_FIELD for a field, and with BUSY for a scan that runs
or has a slot and for every scan in HALTING; in READY with INVALID_FIELD, aux 1, for an EMPTY scan
and NO_SUCH_QUEUE, aux 4, without an ACTIVE CQ. PASSES REMAINING 0 of a run without a pass limit is
the model's reading (notes/assumptions/29). (08_scan_programs_and_limit_watch.md, sections 8.4 and
8.5; 10_administrative_commands.md, section 10.2) -/
def Obligations.ScanStart : Prop :=
  ∀ (cid : BitVec 16) (scan : Byte) (period passes : BitVec 16) (target cls limit : Byte)
      (k : Fin 8) (index : Nat) (s : State),
      s.mayTake index → ScanLaw s → k = eighth scan.toNat →
    ∃ t, exec (.scanStart cid scan period passes target cls limit) s = .next t
      ∧ (7 < scan.toNat → onlyAnswered index (plainDone cid .invalidField 1 0) s t)
      ∧ (scan.toNat ≤ 7 →
        (period.toNat = 0 → onlyAnswered index (plainDone cid .invalidField 2 0) s t)
        ∧ (1 ≤ period.toNat → target.toNat = 0 ∨ 7 < target.toNat →
            onlyAnswered index (plainDone cid .invalidField 4 0) s t)
        ∧ (1 ≤ period.toNat → 1 ≤ target.toNat → target.toNat ≤ 7 → 3 < cls.toNat →
            onlyAnswered index (plainDone cid .invalidField 5 0) s t)
        ∧ (1 ≤ period.toNat → 1 ≤ target.toNat → target.toNat ≤ 7 → cls.toNat ≤ 3 →
            limit.toNat = 0 ∨ 16 < limit.toNat →
            onlyAnswered index (plainDone cid .invalidField 6 0) s t)
        ∧ (1 ≤ period.toNat → 1 ≤ target.toNat → target.toNat ≤ 7 → cls.toNat ≤ 3 →
            1 ≤ limit.toNat → limit.toNat ≤ 16 →
            ((s.scans.look k).state = .running ∨ (s.scans.look k).state = .stopping
              ∨ (∃ i r, s.slots.look i = some r ∧ r.fromScan k = true) ∨ s.device = .halting →
              onlyAnswered index (plainDone cid .busy 0 0) s t)
            ∧ ((∀ i r, s.slots.look i = some r → r.fromScan k = false) → s.device = .ready →
              ((s.scans.look k).state = .empty →
                onlyAnswered index (plainDone cid .invalidField 1 0) s t)
              ∧ ((s.scans.look k).state = .loaded →
                ((s.cqs.look (eighth target.toNat)).state ≠ .active →
                  onlyAnswered index (plainDone cid .noSuchQueue 4 0) s t)
                ∧ ((s.cqs.look (eighth target.toNat)).state = .active →
                  answered (plainDone cid .success 0 0) s t ∧ headTaken index s t
                    ∧ (∃ n, t.scans.look k = { s.scans.look k with
                        state := .running, period := period.toNat, passLimit := passes.toNat,
                        remaining := passes.toNat - 1, target := some (eighth target.toNat),
                        cls := classOf cls.toNat, limit := limit.toNat, countdown := period.toNat,
                        counting := true, passNumber := 1, overruns := 0,
                        nextTemplate := n, outstanding := (s.scans.look k).outstanding + n })
                    ∧ scansStand [k] s t
                    ∧ (∀ p, t.templates[p]? = (s.templates[p]?).map fun x =>
                        if (s.scans.look k).first ≤ p
                            ∧ p < (s.scans.look k).first + (s.scans.look k).count then
                          { x with limitState := .unknown }
                        else x)
                    ∧ t.control = s.control ∧ t.frontEnd = s.frontEnd ∧ t.store = s.store
                    ∧ t.intPending = s.intPending
                    ∧ slotsStand [] s t ∧ sqsStand [0] s t ∧ cqsGrow [] s t)))))

/-- At work, SCAN_STOP of a RUNNING scan with a pass in progress makes it STOPPING, stops its
countdown and waits, its context keeping COMMAND_ID and fields; between passes it makes it LOADED
and a SCAN_DONE with STOPPED joins its target's list, if that is ACTIVE; of a scan that is not
RUNNING it changes no scan; it ends with SUCCESS, the overrun count and the pass number. In READY,
PASS_COMPLETION of the last pass of a limited run makes the scan LOADED with a COMPLETED SCAN_DONE,
and it leaves a RUNNING scan as it stands in HALTING, and in READY one that is unlimited or has
passes left, whose next pass waits for the countdown; of a STOPPING scan, LOADED with a STOPPED one,
and the command that waits for it ends. Other scans stand. (08_scan_programs_and_limit_watch.md,
sections 8.5, 8.6 and 8.7; 10_administrative_commands.md, section 10.1) -/
def Obligations.ScanStopAndPassEnd : Prop :=
  ∀ (cid : BitVec 16) (scan : Byte) (k c : Fin 8) (sc : Scan) (s : State), k = eighth scan.toNat →
      s.scans.look k = sc → c ≠ 0 → (s.cqs.look 0).state = .active →
    (∀ index, s.mayTake index →
      ∃ t, exec (.scanStop cid scan) s = .next t
        ∧ (7 < scan.toNat → onlyAnswered index (plainDone cid .invalidField 1 0) s t)
        ∧ (scan.toNat ≤ 7 → sc.state ≠ .running →
            onlyAnswered index (plainDone cid .success sc.overruns sc.passNumber) s t)
        ∧ (scan.toNat ≤ 7 → sc.state = .running →
            sc.nextTemplate < sc.count ∨ 0 < sc.outstanding →
            (∃ n, t.scans.look k = { sc with
                state := .stopping, counting := false, nextTemplate := sc.nextTemplate + n,
                outstanding := sc.outstanding + n })
              ∧ t.ax = .executing
                { position := index, commandId := cid, cmd := .scanStop scan, work := .stopping k }
              ∧ headTaken index s t ∧ t.aside = s.aside ∧ slotsStand [] s t ∧ scansStand [k] s t
              ∧ sqsStand [0] s t
              ∧ cqsGrow [] s t)
        ∧ (scan.toNat ≤ 7 → sc.state = .running → sc.count ≤ sc.nextTemplate → sc.outstanding = 0 →
            sc.target = some c →
            t.scans.look k = { sc with state := .loaded, counting := false }
              ∧ ((s.cqs.look c).state = .active →
                (s.cqs.look c).list ++ [.scanDone
                  { scan := k, status := .stopped, pass := sc.passNumber, overruns := sc.overruns,
                    remaining := if sc.passLimit = 0 then 0 else sc.remaining }]
                <+: (t.cqs.look c).list)
              ∧ ((s.cqs.look c).state ≠ .active → (t.cqs.look c).list = (s.cqs.look c).list)
              ∧ answered (plainDone cid .success sc.overruns sc.passNumber) s t
              ∧ headTaken index s t ∧ t.aside = s.aside ∧ slotsStand [] s t ∧ scansStand [k] s t
              ∧ sqsStand [0] s t
              ∧ cqsGrow [] s t))
    ∧ (s.atWork → sc.count ≤ sc.nextTemplate → sc.outstanding = 0 → sc.target = some c →
      (sc.state = .running → s.device = .halting
          ∨ (sc.passLimit = 0 ∨ sc.remaining ≠ 0) ∧ (sc.counting = true → sc.countdown ≠ 0) →
        ∃ t, exec (.passCompletion k) s = .next t ∧ t.scans.look k = sc
          ∧ t.aside = s.aside ∧ slotsStand [] s t ∧ scansStand [] s t ∧ sqsStand [] s t
          ∧ cqsGrow [] s t)
      ∧ (sc.state = .running → s.device = .ready → sc.passLimit ≠ 0 → sc.remaining = 0 →
        ∃ t, exec (.passCompletion k) s = .next t
          ∧ t.scans.look k = { sc with state := .loaded, counting := false }
          ∧ ((s.cqs.look c).state = .active →
                (s.cqs.look c).list ++ [.scanDone
              { scan := k, status := .completed, pass := sc.passNumber, overruns := sc.overruns,
                remaining := 0 }]
                <+: (t.cqs.look c).list)
              ∧ ((s.cqs.look c).state ≠ .active → (t.cqs.look c).list = (s.cqs.look c).list)
          ∧ t.aside = s.aside ∧ slotsStand [] s t ∧ scansStand [k] s t ∧ sqsStand [] s t
          ∧ cqsGrow [] s t)
      ∧ ∀ ctx, sc.state = .stopping → s.ax = .executing ctx → ctx.work = .stopping k →
        ∃ t, exec (.passCompletion k) s = .next t
          ∧ t.scans.look k = { sc with state := .loaded, counting := false }
          ∧ ((s.cqs.look c).state = .active →
                (s.cqs.look c).list ++ [.scanDone
              { scan := k, status := .stopped, pass := sc.passNumber, overruns := sc.overruns,
                remaining := if sc.passLimit = 0 then 0 else sc.remaining }]
                <+: (t.cqs.look c).list)
              ∧ ((s.cqs.look c).state ≠ .active → (t.cqs.look c).list = (s.cqs.look c).list)
          ∧ answered (plainDone ctx.commandId .success sc.overruns sc.passNumber) s t
          ∧ t.aside = s.aside ∧ slotsStand [] s t ∧ scansStand [k] s t ∧ sqsStand [] s t
          ∧ cqsGrow [] s t)

/-- SCAN_STATUS of an id above 7 ends with INVALID_FIELD, aux 1. Otherwise it ends at once with
SUCCESS and the scan's state, pass number, overrun count as aux, and passes remaining as value, or
-1 when the pass limit is 0. That nothing else changes but SQ0's HEAD, the AX and CQ0's list, and no
scan but by the steps of the event, is said with it, as the frame of the command; R149 itself says
only what is reported. (R149) -/
def Obligations.ScanStatusReports : Prop :=
  ∀ (cid : BitVec 16) (scan : Byte) (sc : Scan) (index : Nat) (s : State), s.mayTake index →
      s.scans.look (eighth scan.toNat) = sc →
    ∃ t, exec (.scanStatus cid scan) s = .next t
      ∧ (7 < scan.toNat → onlyAnswered index (plainDone cid .invalidField 1 0) s t)
      ∧ (scan.toNat ≤ 7 → onlyAnswered index
          { commandId := cid, status := .success, aux := sc.overruns,
            value := if sc.passLimit = 0 then -1 else (sc.remaining : Int),
            scanState := sc.state, pass := sc.passNumber } s t)

/-- In READY, a TIMEBASE_TICK lowers every running countdown above 1 by one. A RUNNING scan whose
countdown it brings to 0, or on which COUNTDOWN_EXPIRY finds it at 0, counts an overrun and reloads
the countdown with PERIOD while a pass is in progress; otherwise, unless its passes are used up, it
starts the next pass: pass number one higher, a limited run one pass shorter, the countdown
reloaded, its templates pending from the first. Slots, rings, every scan that does not count and
everything aside stand. That the expiry follows within the tick's own event is the model's reading
(notes/assumptions/19). (08_scan_programs_and_limit_watch.md, section 8.5) -/
def Obligations.TickAndExpiry : Prop :=
  ∀ (s : State), s.heldInReset = false → s.device = .ready →
    ∃ t, exec .timebaseTick s = .next t ∧ t.aside = s.aside ∧ slotsStand [] s t ∧ sqsStand [] s t
      ∧ cqsGrow [] s t ∧ (∀ k, (s.scans.look k).counting = false →
        scanStands (s.scans.look k) (t.scans.look k))
      ∧ ∀ k sc, s.scans.look k = sc → sc.counting = true →
        (2 ≤ sc.countdown → (t.scans.look k).countdown = sc.countdown - 1
            ∧ (t.scans.look k).passNumber = sc.passNumber
            ∧ (t.scans.look k).overruns = sc.overruns)
        ∧ (sc.state = .running → sc.nextTemplate < sc.count ∨ 0 < sc.outstanding →
            (sc.countdown = 1 → (t.scans.look k).countdown = sc.period
              ∧ (t.scans.look k).overruns = min 4294967295 (sc.overruns + 1)
              ∧ (t.scans.look k).passNumber = sc.passNumber ∧ (t.scans.look k).state = .running)
            ∧ (sc.countdown = 0 → sc.period ≠ 0 →
              ∃ u, exec (.countdownExpiry k) s = .next u
                ∧ (u.scans.look k).countdown = sc.period
                ∧ (u.scans.look k).overruns = min 4294967295 (sc.overruns + 1)
                ∧ (u.scans.look k).passNumber = sc.passNumber
                ∧ u.aside = s.aside ∧ slotsStand [] s u ∧ scansStand [k] s u ∧ sqsStand [] s u
                ∧ cqsGrow [] s u))
        ∧ (sc.state = .running → sc.count ≤ sc.nextTemplate → sc.outstanding = 0 →
            sc.passLimit = 0 ∨ sc.remaining ≠ 0 →
            (sc.countdown = 1 → (t.scans.look k).countdown = sc.period
              ∧ (t.scans.look k).passNumber = min 4294967295 (sc.passNumber + 1)
              ∧ (t.scans.look k).remaining
                = (if sc.passLimit = 0 then sc.remaining else sc.remaining - 1)
              ∧ (t.scans.look k).overruns = sc.overruns ∧ (t.scans.look k).counting = true
              ∧ (t.scans.look k).nextTemplate = (t.scans.look k).outstanding)
            ∧ (sc.countdown = 0 → sc.period ≠ 0 → 0 < sc.count →
              ∃ u, exec (.countdownExpiry k) s = .next u
                ∧ (u.scans.look k).countdown = sc.period
                ∧ (u.scans.look k).passNumber = min 4294967295 (sc.passNumber + 1)
                ∧ (u.scans.look k).remaining
                  = (if sc.passLimit = 0 then sc.remaining else sc.remaining - 1)
                ∧ (u.scans.look k).overruns = sc.overruns ∧ (u.scans.look k).counting = true
                ∧ (u.scans.look k).nextTemplate = (u.scans.look k).outstanding
                ∧ u.aside = s.aside ∧ slotsStand [] s u ∧ scansStand [k] s u ∧ sqsStand [] s u
                ∧ cqsGrow [] s u))

/-- From every state in which the age list holds each occupied slot once, a step leaves it so, and,
from one with lawful rings, keeps the order of the slots that remain and puts the slots filled at
the end; and from every state in which each WAITING slot holds its request and the need set of it, a
step leaves it so. (03_claims_on_terminals_sources_and_converters.md, section 3.2;
02_the_request_table.md, sections 2.1, 2.2 and 2.3) -/
def Obligations.TableLawsKept : Prop :=
  ∀ s t : State, step s = .next t →
    (AgeLaw s → AgeLaw t ∧ (RingLaw s → ∃ joined, ageJoined joined s t))
      ∧ (WaitingLaw s → WaitingLaw t)

/-- From every state in which no SQ or scan holds more slots than its in-flight limit, no SQ in NONE
and not SQ0 holds any, and OUTSTANDING counts each scan's slots, a step leaves it so.
(02_the_request_table.md, sections 2.1 and 2.3; 08_scan_programs_and_limit_watch.md, sections 8.1
and 8.5) -/
def Obligations.SlotCountLawsKept : Prop :=
  ∀ s t : State, SlotCountLaw s → OutstandingLaw s → step s = .next t →
    SlotCountLaw t ∧ OutstandingLaw t

/-- From every state in which each terminal has no claim, one DRIVE claim, or one or two SENSE
claims of different converters, and need sets and templates name distinct terminals, a step leaves
it so. (03_claims_on_terminals_sources_and_converters.md, sections 3.1, 3.2 and 3.3) -/
def Obligations.TerminalLawKept : Prop :=
  ∀ s t : State, TerminalLaw s → step s = .next t → TerminalLaw t

/-- From every state in which a converter's record holds RECOVERY exactly in RECOVERY and a slot
exactly while the converter serves it and is not IDLE, and a source is ON exactly for the slot its
record names, a step leaves it so. (03_claims_on_terminals_sources_and_converters.md, section 3.1;
04_switch_matrix_and_excitation_sources.md, section 4.4; 05_integrating_converters.md, section 5.2)
-/
def Obligations.HolderLawKept : Prop :=
  ∀ s t : State, HolderLaw s → step s = .next t → HolderLaw t

/-- From every state that meets the laws of the calibration store a step leaves them met; and in
every state a step leaves each counter at its count or one above it. (07_calibration_store.md,
sections 7.2, 7.3 and 7.6) -/
def Obligations.StoreLawKept : Prop :=
  ∀ s t : State, step s = .next t → (StoreLaw s → StoreLaw t)
    ∧ ∀ e, (s.cells.look e).counter ≤ (t.cells.look e).counter
        ∧ (t.cells.look e).counter ≤ (s.cells.look e).counter + 1

/-- From every state in which template memory holds the templates of all scans, at most 128 places,
and the scan records are in order, a step leaves it so. (08_scan_programs_and_limit_watch.md,
sections 8.1, 8.2, 8.3 and 8.5) -/
def Obligations.ScanLawKept : Prop :=
  ∀ s t : State, ScanLaw s → step s = .next t → ScanLaw t

/-- From every state in which every ring's indices lie within it, its unsignalled count below the
threshold, and a write in progress only on an ACTIVE ring that is not full and has a member, a step
leaves it so; and CQ0's list, without two waiting events of one kind and object, stays so.
(09_submission_and_completion_queues.md, sections 9.1, 9.2, 9.6 and 9.8;
10_administrative_commands.md, section 10.7) -/
def Obligations.RingLawsKept : Prop :=
  ∀ s t : State, step s = .next t → (RingLaw s → RingLaw t) ∧ (MergingLaw s → MergingLaw t)

/-- From every state in which OFF, STARTING and FAULT leave every slot FREE, every ring NONE, no
scan running, the AX IDLE and INT_PENDING clear, and at most one completion waits, in CQ0's list
while the AX is POSTING, a step leaves it so. That a ring in NONE holds 0 in every field is the
model's choice (notes/assumptions/10). (11_device_control_and_start_up.md, sections 11.2, 11.3, 11.4
and 11.5; 10_administrative_commands.md, sections 10.1 and 10.7) -/
def Obligations.DeviceLawsKept : Prop :=
  ∀ s t : State, DeviceLaw s → AdminLaw s → step s = .next t → DeviceLaw t ∧ AdminLaw t
end

