-- ==== Sys2Proof/Laws/State.lean ====
section
/-! SUPPORT. The small lemmas of the tables and of the updates of one entry: one lemma per field per
update. -/

namespace Sys2Proof

@[simp] theorem Table.look_put_same {α : Type} {n : Nat} (t : Table α n) (i : Fin n) (x : α) :
    (t.put i x).look i = x := by simp [Table.put, Table.look]

@[simp] theorem Table.look_put_ne {α : Type} {n : Nat} (t : Table α n) (i j : Fin n) (x : α)
    (h : j ≠ i) : (t.put i x).look j = t.look j := by
  have : i.val ≠ j.val := fun e => h (Fin.ext e.symm)
  simp [Table.put, Table.look, this]

theorem Table.look_put {α : Type} {n : Nat} (t : Table α n) (i j : Fin n) (x : α) :
    (t.put i x).look j = if j = i then x else t.look j := by
  by_cases h : j = i
  · subst h; simp
  · simp [h]

@[simp] theorem Table.look_build {α : Type} {n : Nat} (f : Fin n → α) (i : Fin n) :
    (Table.build f).look i = f i := by simp [Table.build, Table.look]

@[simp] theorem Table.look_replicate {α : Type} {n : Nat} (x : α) (i : Fin n) :
    Table.look (Vector.replicate n x) i = x := by simp [Table.look]

@[ext] theorem Table.ext_look {α : Type} {n : Nat} {t u : Table α n} (h : ∀ i, t.look i = u.look i) :
    t = u := by
  apply Vector.ext
  intro i hi
  exact h ⟨i, hi⟩

namespace Machine

@[simp] theorem ByConv.look_put_same {α : Type} (p : ByConv α) (c : Conv) (x : α) :
    (p.put c x).look c = x := by cases c <;> rfl

@[simp] theorem ByConv.look_put_ne {α : Type} (p : ByConv α) (c d : Conv) (x : α) (h : d ≠ c) :
    (p.put c x).look d = p.look d := by cases c <;> cases d <;> first | rfl | exact absurd rfl h

theorem ByConv.look_put {α : Type} (p : ByConv α) (c d : Conv) (x : α) :
    (p.put c x).look d = if d = c then x else p.look d := by
  cases c <;> cases d <;> rfl

@[simp] theorem BySource.look_put_same {α : Type} (p : BySource α) (c : SourceId) (x : α) :
    (p.put c x).look c = x := by cases c <;> rfl

@[simp] theorem BySource.look_put_ne {α : Type} (p : BySource α) (c d : SourceId) (x : α)
    (h : d ≠ c) : (p.put c x).look d = p.look d := by
  cases c <;> cases d <;> first | rfl | exact absurd rfl h

theorem BySource.look_put {α : Type} (p : BySource α) (c d : SourceId) (x : α) :
    (p.put c x).look d = if d = c then x else p.look d := by
  cases c <;> cases d <;> rfl

section setSlot

variable (s : State) (i : Fin 16) (x : Option SlotRec)

@[simp] theorem State.setSlot_pending : (s.setSlot i x).pending = s.pending := rfl
@[simp] theorem State.setSlot_heldInReset : (s.setSlot i x).heldInReset = s.heldInReset := rfl
@[simp] theorem State.setSlot_device : (s.setSlot i x).device = s.device := rfl
@[simp] theorem State.setSlot_faultCode : (s.setSlot i x).faultCode = s.faultCode := rfl
@[simp] theorem State.setSlot_enable : (s.setSlot i x).enable = s.enable := rfl
@[simp] theorem State.setSlot_intEnable : (s.setSlot i x).intEnable = s.intEnable := rfl
@[simp] theorem State.setSlot_adminSq : (s.setSlot i x).adminSq = s.adminSq := rfl
@[simp] theorem State.setSlot_adminCq : (s.setSlot i x).adminCq = s.adminCq := rfl
@[simp] theorem State.setSlot_intPending : (s.setSlot i x).intPending = s.intPending := rfl
@[simp] theorem State.setSlot_loading : (s.setSlot i x).loading = s.loading := rfl
@[simp] theorem State.setSlot_checks : (s.setSlot i x).checks = s.checks := rfl
@[simp] theorem State.setSlot_sqs : (s.setSlot i x).sqs = s.sqs := rfl
@[simp] theorem State.setSlot_cqs : (s.setSlot i x).cqs = s.cqs := rfl
@[simp] theorem State.setSlot_rotation : (s.setSlot i x).rotation = s.rotation := rfl
@[simp] theorem State.setSlot_slots : (s.setSlot i x).slots = s.slots.put i x := rfl
@[simp] theorem State.setSlot_age : (s.setSlot i x).age = s.age := rfl
@[simp] theorem State.setSlot_termClaims : (s.setSlot i x).termClaims = s.termClaims := rfl
@[simp] theorem State.setSlot_sourceClaims : (s.setSlot i x).sourceClaims = s.sourceClaims := rfl
@[simp] theorem State.setSlot_convClaims : (s.setSlot i x).convClaims = s.convClaims := rfl
@[simp] theorem State.setSlot_examDue : (s.setSlot i x).examDue = s.examDue := rfl
@[simp] theorem State.setSlot_conns : (s.setSlot i x).conns = s.conns := rfl
@[simp] theorem State.setSlot_sources : (s.setSlot i x).sources = s.sources := rfl
@[simp] theorem State.setSlot_convs : (s.setSlot i x).convs = s.convs := rfl
@[simp] theorem State.setSlot_cells : (s.setSlot i x).cells = s.cells := rfl
@[simp] theorem State.setSlot_shadows : (s.setSlot i x).shadows = s.shadows := rfl
@[simp] theorem State.setSlot_writeCtx : (s.setSlot i x).writeCtx = s.writeCtx := rfl
@[simp] theorem State.setSlot_templates : (s.setSlot i x).templates = s.templates := rfl
@[simp] theorem State.setSlot_scans : (s.setSlot i x).scans = s.scans := rfl
@[simp] theorem State.setSlot_ax : (s.setSlot i x).ax = s.ax := rfl
@[simp] theorem State.setSlot_freeTick : (s.setSlot i x).freeTick = s.freeTick := rfl

end setSlot

section setSq

variable (s : State) (q : Fin 8) (x : Sq)

@[simp] theorem State.setSq_pending : (s.setSq q x).pending = s.pending := rfl
@[simp] theorem State.setSq_heldInReset : (s.setSq q x).heldInReset = s.heldInReset := rfl
@[simp] theorem State.setSq_device : (s.setSq q x).device = s.device := rfl
@[simp] theorem State.setSq_faultCode : (s.setSq q x).faultCode = s.faultCode := rfl
@[simp] theorem State.setSq_enable : (s.setSq q x).enable = s.enable := rfl
@[simp] theorem State.setSq_intEnable : (s.setSq q x).intEnable = s.intEnable := rfl
@[simp] theorem State.setSq_adminSq : (s.setSq q x).adminSq = s.adminSq := rfl
@[simp] theorem State.setSq_adminCq : (s.setSq q x).adminCq = s.adminCq := rfl
@[simp] theorem State.setSq_intPending : (s.setSq q x).intPending = s.intPending := rfl
@[simp] theorem State.setSq_loading : (s.setSq q x).loading = s.loading := rfl
@[simp] theorem State.setSq_checks : (s.setSq q x).checks = s.checks := rfl
@[simp] theorem State.setSq_sqs : (s.setSq q x).sqs = s.sqs.put q x := rfl
@[simp] theorem State.setSq_cqs : (s.setSq q x).cqs = s.cqs := rfl
@[simp] theorem State.setSq_rotation : (s.setSq q x).rotation = s.rotation := rfl
@[simp] theorem State.setSq_slots : (s.setSq q x).slots = s.slots := rfl
@[simp] theorem State.setSq_age : (s.setSq q x).age = s.age := rfl
@[simp] theorem State.setSq_termClaims : (s.setSq q x).termClaims = s.termClaims := rfl
@[simp] theorem State.setSq_sourceClaims : (s.setSq q x).sourceClaims = s.sourceClaims := rfl
@[simp] theorem State.setSq_convClaims : (s.setSq q x).convClaims = s.convClaims := rfl
@[simp] theorem State.setSq_examDue : (s.setSq q x).examDue = s.examDue := rfl
@[simp] theorem State.setSq_conns : (s.setSq q x).conns = s.conns := rfl
@[simp] theorem State.setSq_sources : (s.setSq q x).sources = s.sources := rfl
@[simp] theorem State.setSq_convs : (s.setSq q x).convs = s.convs := rfl
@[simp] theorem State.setSq_cells : (s.setSq q x).cells = s.cells := rfl
@[simp] theorem State.setSq_shadows : (s.setSq q x).shadows = s.shadows := rfl
@[simp] theorem State.setSq_writeCtx : (s.setSq q x).writeCtx = s.writeCtx := rfl
@[simp] theorem State.setSq_templates : (s.setSq q x).templates = s.templates := rfl
@[simp] theorem State.setSq_scans : (s.setSq q x).scans = s.scans := rfl
@[simp] theorem State.setSq_ax : (s.setSq q x).ax = s.ax := rfl
@[simp] theorem State.setSq_freeTick : (s.setSq q x).freeTick = s.freeTick := rfl

end setSq

section setCq

variable (s : State) (c : Fin 8) (x : Cq)

@[simp] theorem State.setCq_pending : (s.setCq c x).pending = s.pending := rfl
@[simp] theorem State.setCq_heldInReset : (s.setCq c x).heldInReset = s.heldInReset := rfl
@[simp] theorem State.setCq_device : (s.setCq c x).device = s.device := rfl
@[simp] theorem State.setCq_faultCode : (s.setCq c x).faultCode = s.faultCode := rfl
@[simp] theorem State.setCq_enable : (s.setCq c x).enable = s.enable := rfl
@[simp] theorem State.setCq_intEnable : (s.setCq c x).intEnable = s.intEnable := rfl
@[simp] theorem State.setCq_adminSq : (s.setCq c x).adminSq = s.adminSq := rfl
@[simp] theorem State.setCq_adminCq : (s.setCq c x).adminCq = s.adminCq := rfl
@[simp] theorem State.setCq_intPending : (s.setCq c x).intPending = s.intPending := rfl
@[simp] theorem State.setCq_loading : (s.setCq c x).loading = s.loading := rfl
@[simp] theorem State.setCq_checks : (s.setCq c x).checks = s.checks := rfl
@[simp] theorem State.setCq_sqs : (s.setCq c x).sqs = s.sqs := rfl
@[simp] theorem State.setCq_cqs : (s.setCq c x).cqs = s.cqs.put c x := rfl
@[simp] theorem State.setCq_rotation : (s.setCq c x).rotation = s.rotation := rfl
@[simp] theorem State.setCq_slots : (s.setCq c x).slots = s.slots := rfl
@[simp] theorem State.setCq_age : (s.setCq c x).age = s.age := rfl
@[simp] theorem State.setCq_termClaims : (s.setCq c x).termClaims = s.termClaims := rfl
@[simp] theorem State.setCq_sourceClaims : (s.setCq c x).sourceClaims = s.sourceClaims := rfl
@[simp] theorem State.setCq_convClaims : (s.setCq c x).convClaims = s.convClaims := rfl
@[simp] theorem State.setCq_examDue : (s.setCq c x).examDue = s.examDue := rfl
@[simp] theorem State.setCq_conns : (s.setCq c x).conns = s.conns := rfl
@[simp] theorem State.setCq_sources : (s.setCq c x).sources = s.sources := rfl
@[simp] theorem State.setCq_convs : (s.setCq c x).convs = s.convs := rfl
@[simp] theorem State.setCq_cells : (s.setCq c x).cells = s.cells := rfl
@[simp] theorem State.setCq_shadows : (s.setCq c x).shadows = s.shadows := rfl
@[simp] theorem State.setCq_writeCtx : (s.setCq c x).writeCtx = s.writeCtx := rfl
@[simp] theorem State.setCq_templates : (s.setCq c x).templates = s.templates := rfl
@[simp] theorem State.setCq_scans : (s.setCq c x).scans = s.scans := rfl
@[simp] theorem State.setCq_ax : (s.setCq c x).ax = s.ax := rfl
@[simp] theorem State.setCq_freeTick : (s.setCq c x).freeTick = s.freeTick := rfl

end setCq

section setScan

variable (s : State) (k : Fin 8) (x : Scan)

@[simp] theorem State.setScan_pending : (s.setScan k x).pending = s.pending := rfl
@[simp] theorem State.setScan_heldInReset : (s.setScan k x).heldInReset = s.heldInReset := rfl
@[simp] theorem State.setScan_device : (s.setScan k x).device = s.device := rfl
@[simp] theorem State.setScan_faultCode : (s.setScan k x).faultCode = s.faultCode := rfl
@[simp] theorem State.setScan_enable : (s.setScan k x).enable = s.enable := rfl
@[simp] theorem State.setScan_intEnable : (s.setScan k x).intEnable = s.intEnable := rfl
@[simp] theorem State.setScan_adminSq : (s.setScan k x).adminSq = s.adminSq := rfl
@[simp] theorem State.setScan_adminCq : (s.setScan k x).adminCq = s.adminCq := rfl
@[simp] theorem State.setScan_intPending : (s.setScan k x).intPending = s.intPending := rfl
@[simp] theorem State.setScan_loading : (s.setScan k x).loading = s.loading := rfl
@[simp] theorem State.setScan_checks : (s.setScan k x).checks = s.checks := rfl
@[simp] theorem State.setScan_sqs : (s.setScan k x).sqs = s.sqs := rfl
@[simp] theorem State.setScan_cqs : (s.setScan k x).cqs = s.cqs := rfl
@[simp] theorem State.setScan_rotation : (s.setScan k x).rotation = s.rotation := rfl
@[simp] theorem State.setScan_slots : (s.setScan k x).slots = s.slots := rfl
@[simp] theorem State.setScan_age : (s.setScan k x).age = s.age := rfl
@[simp] theorem State.setScan_termClaims : (s.setScan k x).termClaims = s.termClaims := rfl
@[simp] theorem State.setScan_sourceClaims : (s.setScan k x).sourceClaims = s.sourceClaims := rfl
@[simp] theorem State.setScan_convClaims : (s.setScan k x).convClaims = s.convClaims := rfl
@[simp] theorem State.setScan_examDue : (s.setScan k x).examDue = s.examDue := rfl
@[simp] theorem State.setScan_conns : (s.setScan k x).conns = s.conns := rfl
@[simp] theorem State.setScan_sources : (s.setScan k x).sources = s.sources := rfl
@[simp] theorem State.setScan_convs : (s.setScan k x).convs = s.convs := rfl
@[simp] theorem State.setScan_cells : (s.setScan k x).cells = s.cells := rfl
@[simp] theorem State.setScan_shadows : (s.setScan k x).shadows = s.shadows := rfl
@[simp] theorem State.setScan_writeCtx : (s.setScan k x).writeCtx = s.writeCtx := rfl
@[simp] theorem State.setScan_templates : (s.setScan k x).templates = s.templates := rfl
@[simp] theorem State.setScan_scans : (s.setScan k x).scans = s.scans.put k x := rfl
@[simp] theorem State.setScan_ax : (s.setScan k x).ax = s.ax := rfl
@[simp] theorem State.setScan_freeTick : (s.setScan k x).freeTick = s.freeTick := rfl

end setScan

section setConv

variable (s : State) (c : Conv) (x : ConvRec)

@[simp] theorem State.setConv_pending : (s.setConv c x).pending = s.pending := rfl
@[simp] theorem State.setConv_heldInReset : (s.setConv c x).heldInReset = s.heldInReset := rfl
@[simp] theorem State.setConv_device : (s.setConv c x).device = s.device := rfl
@[simp] theorem State.setConv_faultCode : (s.setConv c x).faultCode = s.faultCode := rfl
@[simp] theorem State.setConv_enable : (s.setConv c x).enable = s.enable := rfl
@[simp] theorem State.setConv_intEnable : (s.setConv c x).intEnable = s.intEnable := rfl
@[simp] theorem State.setConv_adminSq : (s.setConv c x).adminSq = s.adminSq := rfl
@[simp] theorem State.setConv_adminCq : (s.setConv c x).adminCq = s.adminCq := rfl
@[simp] theorem State.setConv_intPending : (s.setConv c x).intPending = s.intPending := rfl
@[simp] theorem State.setConv_loading : (s.setConv c x).loading = s.loading := rfl
@[simp] theorem State.setConv_checks : (s.setConv c x).checks = s.checks := rfl
@[simp] theorem State.setConv_sqs : (s.setConv c x).sqs = s.sqs := rfl
@[simp] theorem State.setConv_cqs : (s.setConv c x).cqs = s.cqs := rfl
@[simp] theorem State.setConv_rotation : (s.setConv c x).rotation = s.rotation := rfl
@[simp] theorem State.setConv_slots : (s.setConv c x).slots = s.slots := rfl
@[simp] theorem State.setConv_age : (s.setConv c x).age = s.age := rfl
@[simp] theorem State.setConv_termClaims : (s.setConv c x).termClaims = s.termClaims := rfl
@[simp] theorem State.setConv_sourceClaims : (s.setConv c x).sourceClaims = s.sourceClaims := rfl
@[simp] theorem State.setConv_convClaims : (s.setConv c x).convClaims = s.convClaims := rfl
@[simp] theorem State.setConv_examDue : (s.setConv c x).examDue = s.examDue := rfl
@[simp] theorem State.setConv_conns : (s.setConv c x).conns = s.conns := rfl
@[simp] theorem State.setConv_sources : (s.setConv c x).sources = s.sources := rfl
@[simp] theorem State.setConv_convs : (s.setConv c x).convs = s.convs.put c x := rfl
@[simp] theorem State.setConv_cells : (s.setConv c x).cells = s.cells := rfl
@[simp] theorem State.setConv_shadows : (s.setConv c x).shadows = s.shadows := rfl
@[simp] theorem State.setConv_writeCtx : (s.setConv c x).writeCtx = s.writeCtx := rfl
@[simp] theorem State.setConv_templates : (s.setConv c x).templates = s.templates := rfl
@[simp] theorem State.setConv_scans : (s.setConv c x).scans = s.scans := rfl
@[simp] theorem State.setConv_ax : (s.setConv c x).ax = s.ax := rfl
@[simp] theorem State.setConv_freeTick : (s.setConv c x).freeTick = s.freeTick := rfl

end setConv

end Machine

end Sys2Proof
end

