-- ==== Sys2Proof/Laws/Frame.lean ====
section
/-! SUPPORT. What the shared operations leave as it stood: the operations on slots, lists, scans and the
AX leave everything in `State.aside`; and what `settle` can do while the device is READY. -/

namespace Sys2Proof.Machine

/-! ### The parts of `aside` -/

section aside

variable {s t : State} (h : s.aside = t.aside)
include h

theorem aside_control : s.control = t.control := congrArg (·.1) h
theorem aside_frontEnd : s.frontEnd = t.frontEnd := congrArg (·.2.1) h
theorem aside_store : s.store = t.store := congrArg (·.2.2.1) h
theorem aside_templates : s.templates = t.templates := congrArg (·.2.2.2.1) h
theorem aside_intPending : s.intPending = t.intPending := congrArg (·.2.2.2.2.1) h
theorem aside_pending : s.pending = t.pending := congrArg (·.2.2.2.2.2.1) h
theorem aside_freeTick : s.freeTick = t.freeTick := congrArg (·.2.2.2.2.2.2) h
theorem aside_heldInReset : s.heldInReset = t.heldInReset := congrArg (·.1.1) h
theorem aside_device : s.device = t.device := congrArg (·.1.2.1) h
theorem aside_faultCode : s.faultCode = t.faultCode := congrArg (·.1.2.2.1) h
theorem aside_enable : s.enable = t.enable := congrArg (·.1.2.2.2.1) h
theorem aside_intEnable : s.intEnable = t.intEnable := congrArg (·.1.2.2.2.2.1) h
theorem aside_adminSq : s.adminSq = t.adminSq := congrArg (·.1.2.2.2.2.2.1) h
theorem aside_adminCq : s.adminCq = t.adminCq := congrArg (·.1.2.2.2.2.2.2.1) h
theorem aside_loading : s.loading = t.loading := congrArg (·.1.2.2.2.2.2.2.2.1) h
theorem aside_checks : s.checks = t.checks := congrArg (·.1.2.2.2.2.2.2.2.2) h
theorem aside_termClaims : s.termClaims = t.termClaims := congrArg (·.2.1.1) h
theorem aside_sourceClaims : s.sourceClaims = t.sourceClaims := congrArg (·.2.1.2.1) h
theorem aside_convClaims : s.convClaims = t.convClaims := congrArg (·.2.1.2.2.1) h
theorem aside_conns : s.conns = t.conns := congrArg (·.2.1.2.2.2.1) h
theorem aside_sources : s.sources = t.sources := congrArg (·.2.1.2.2.2.2.1) h
theorem aside_convs : s.convs = t.convs := congrArg (·.2.1.2.2.2.2.2) h
theorem aside_cells : s.cells = t.cells := congrArg (·.2.2.1.1) h
theorem aside_shadows : s.shadows = t.shadows := congrArg (·.2.2.1.2.1) h
theorem aside_writeCtx : s.writeCtx = t.writeCtx := congrArg (·.2.2.1.2.2) h

end aside

/-! ### Operations that leave all of `aside` -/

@[simp] theorem setSlot_aside (s : State) (i : Fin 16) (x : Option SlotRec) :
    (s.setSlot i x).aside = s.aside := rfl

@[simp] theorem setSq_aside (s : State) (q : Fin 8) (x : Sq) : (s.setSq q x).aside = s.aside := rfl

@[simp] theorem setCq_aside (s : State) (c : Fin 8) (x : Cq) : (s.setCq c x).aside = s.aside := rfl

@[simp] theorem setScan_aside (s : State) (k : Fin 8) (x : Scan) :
    (s.setScan k x).aside = s.aside := rfl

/-- A fold of operations that leave a view leaves it. -/
theorem foldl_view {α β : Type} (v : State → β) (f : State → α → State)
    (h : ∀ s a, v (f s a) = v s) (l : List α) (s : State) : v (l.foldl f s) = v s := by
  induction l generalizing s with
  | nil => rfl
  | cons a l ih => exact (ih _).trans (h s a)

@[simp] theorem freeSlot_aside (i : Fin 16) (s : State) : (freeSlot i s).aside = s.aside := by
  unfold freeSlot
  repeat' split
  all_goals rfl

@[simp] theorem joinList_aside (c : Fin 8) (m : Member) (s : State) :
    (joinList c m s).aside = s.aside := by
  unfold joinList
  split <;> rfl

@[simp] theorem handOff_aside (i : Fin 16) (s : State) : (handOff i s).aside = s.aside := by
  unfold handOff
  repeat' split
  all_goals simp

@[simp] theorem postSlot_aside (i : Fin 16) (res : Result) (s : State) :
    (postSlot i res s).aside = s.aside := by
  unfold postSlot
  split <;> simp

@[simp] theorem raiseEvent_aside (kind : EventKind) (object : Nat) (value : Int) (s : State) :
    (raiseEvent kind object value s).aside = s.aside := by
  unfold raiseEvent
  split <;> rfl

@[simp] theorem completeWith_aside (status : AdminStatus) (aux : Nat) (value : Int) (sc : ScanState)
    (pass : Nat) (s : State) : (completeWith status aux value sc pass s).aside = s.aside := by
  unfold completeWith
  split
  · exact joinList_aside _ _ _
  · rfl

@[simp] theorem complete_aside (status : AdminStatus) (aux : Nat) (value : Int) (s : State) :
    (complete status aux value s).aside = s.aside := completeWith_aside ..

@[simp] theorem keepWork_aside (w : AxWork) (s : State) : (keepWork w s).aside = s.aside := by
  unfold keepWork
  split <;> rfl

@[simp] theorem joinScanDone_aside (k : Fin 8) (st : ScanDoneStatus) (s : State) :
    (joinScanDone k st s).aside = s.aside := by
  unfold joinScanDone
  dsimp only
  split <;> simp

@[simp] theorem completeStop_aside (k : Fin 8) (s : State) : (completeStop k s).aside = s.aside := by
  unfold completeStop
  split <;> simp

@[simp] theorem orphanSlots_aside (k : Fin 8) (s : State) : (orphanSlots k s).aside = s.aside := rfl

@[simp] theorem loseTarget_aside (c k : Fin 8) (s : State) : (loseTarget c k s).aside = s.aside := by
  unfold loseTarget
  dsimp only
  split <;> simp

@[simp] theorem fenceRelease_aside (i : Fin 16) (s : State) : (fenceRelease i s).aside = s.aside := by
  unfold fenceRelease
  repeat' split
  all_goals simp

@[simp] theorem fenceStage_aside (s : State) : (fenceStage s).aside = s.aside :=
  foldl_view State.aside _ (fun s i => fenceRelease_aside i s) _ _

@[simp] theorem passComplete_aside (k : Fin 8) (s : State) : (passComplete k s).aside = s.aside := by
  unfold passComplete
  dsimp only
  repeat' split
  all_goals simp

@[simp] theorem passStage_aside (s : State) : (passStage s).aside = s.aside :=
  foldl_view State.aside _ (fun s k => passComplete_aside k s) _ _

@[simp] theorem deleteSqStage_aside (s : State) : (deleteSqStage s).aside = s.aside := by
  unfold deleteSqStage
  repeat' split
  all_goals simp

@[simp] theorem expire_aside (k : Fin 8) (s : State) : (expire k s).aside = s.aside := by
  unfold expire
  dsimp only
  repeat' split
  all_goals simp

@[simp] theorem expiryStage_aside (s : State) : (expiryStage s).aside = s.aside :=
  foldl_view State.aside _ (fun s k => expire_aside k s) _ _

@[simp] theorem fillFrom_aside (i : Fin 16) (n : Fin 15) (s : State) :
    (fillFrom i n s).aside = s.aside := by
  unfold fillFrom
  dsimp only
  repeat' split
  all_goals rfl

@[simp] theorem fillOne_aside (s : State) : (fillOne s).aside = s.aside := by
  unfold fillOne
  repeat' split
  · exact fillFrom_aside _ _ _
  · rfl

@[simp] theorem fills_aside (n : Nat) (s : State) : (fills n s).aside = s.aside := by
  induction n generalizing s with
  | zero => rfl
  | succ n ih => exact (ih _).trans (fillOne_aside s)

@[simp] theorem fillStage_aside (s : State) : (fillStage s).aside = s.aside := fills_aside 16 s

@[simp] theorem adminFetchStage_aside (s : State) : (adminFetchStage s).aside = s.aside := by
  unfold adminFetchStage
  dsimp only
  split <;> rfl

@[simp] theorem beginWrite_aside (c : Fin 8) (s : State) : (beginWrite c s).aside = s.aside := by
  unfold beginWrite
  dsimp only
  repeat' split
  all_goals rfl

@[simp] theorem writeStage_aside (s : State) : (writeStage s).aside = s.aside :=
  foldl_view State.aside _ (fun s c => beginWrite_aside c s) _ _

@[simp] theorem discardMembers_aside (ms : List Member) (s : State) :
    (discardMembers ms s).aside = s.aside :=
  foldl_view State.aside _ (fun s m => by cases m <;> simp) _ _

@[simp] theorem takeEntry_aside (i : Fin 16) (r : SlotRec) (o : Origin) (e : Entry) (s : State) :
    (takeEntry i r o e s).aside = s.aside := by
  unfold takeEntry
  dsimp only
  repeat' split
  all_goals first | rfl | simp

@[simp] theorem fetchDone_aside (i : Fin 16) (e : Entry) (s : State) :
    (fetchDone i e s).aside = s.aside := by
  unfold fetchDone
  dsimp only
  repeat' split
  all_goals simp

@[simp] theorem fetchError_aside (i : Fin 16) (s : State) : (fetchError i s).aside = s.aside := by
  unfold fetchError
  dsimp only
  repeat' split
  all_goals simp

/-! ### The stages that only STARTING and HALTING know -/

theorem discardStage_idle {s : State} (h : s.device ≠ .halting) : discardStage s = s := by
  have : discardDue s = false := by simp [discardDue, h]
  simp [discardStage, this]

theorem startCheck_idle {s : State} (c : Conv) (h : s.device ≠ .starting) : startCheck c s = s := by
  simp [startCheck, h]

theorem checkStage_idle {s : State} (h : s.device ≠ .starting) : checkStage s = s := by
  simp [checkStage, startCheck_idle _ h]

theorem startUpStage_idle {s : State} (h : s.device ≠ .starting) : startUpStage s = s := by
  simp [startUpStage, h]

/-- The steps of READY: no discard step, no start-up. -/
theorem settle_of_ready {s : State} (h : s.device = .ready) :
    settle s = writeStage (adminFetchStage (fillStage (expiryStage (deleteSqStage (passStage
      (fenceStage s)))))) := by
  have e : (expiryStage (deleteSqStage (passStage (fenceStage s)))).device = .ready := by
    rw [aside_device (t := s) (by simp), h]
  unfold settle
  rw [discardStage_idle (by rw [e]; decide), checkStage_idle (by rw [e]; decide),
    startUpStage_idle (by rw [e]; decide)]

/-- Everything aside stands through the steps of READY. -/
theorem settle_aside {s : State} (h : s.device = .ready) : (settle s).aside = s.aside := by
  rw [settle_of_ready h]; simp

/-- In OFF and FAULT too. -/
theorem settle_of_rest {s : State} (h : s.device = .off ∨ s.device = .fault) :
    settle s = writeStage (adminFetchStage (fillStage (expiryStage (deleteSqStage (passStage
      (fenceStage s)))))) := by
  have e : (expiryStage (deleteSqStage (passStage (fenceStage s)))).device = s.device :=
    aside_device (by simp)
  have h1 : s.device ≠ .halting := by rcases h with h | h <;> rw [h] <;> decide
  have h2 : s.device ≠ .starting := by rcases h with h | h <;> rw [h] <;> decide
  unfold settle
  rw [discardStage_idle (by rw [e]; exact h1), checkStage_idle (by rw [e]; exact h2),
    startUpStage_idle (by rw [e]; exact h2)]

end Sys2Proof.Machine
end

