-- ==== Sys2Proof/Laws/Settle.lean ====
section
/-! SUPPORT. What the steps within an event can do to slots and rings while the device is READY: slots
that are occupied stand, FENCED MARKs apart; completion rings grow; submission rings stand, a
DELETING one apart. -/

namespace Sys2Proof.Machine

/-! ### Slots through the operations on lists and the AX -/

@[simp] theorem joinList_slots (c : Fin 8) (m : Member) (s : State) :
    (joinList c m s).slots = s.slots := by
  unfold joinList
  split <;> rfl

@[simp] theorem raiseEvent_slots (kind : EventKind) (object : Nat) (value : Int) (s : State) :
    (raiseEvent kind object value s).slots = s.slots := by
  unfold raiseEvent
  split <;> rfl

@[simp] theorem completeWith_slots (status : AdminStatus) (aux : Nat) (value : Int) (sc : ScanState)
    (pass : Nat) (s : State) : (completeWith status aux value sc pass s).slots = s.slots := by
  unfold completeWith
  split
  · exact joinList_slots _ _ _
  · rfl

@[simp] theorem complete_slots (status : AdminStatus) (aux : Nat) (value : Int) (s : State) :
    (complete status aux value s).slots = s.slots := completeWith_slots ..

@[simp] theorem keepWork_slots (w : AxWork) (s : State) : (keepWork w s).slots = s.slots := by
  unfold keepWork
  split <;> rfl

@[simp] theorem joinScanDone_slots (k : Fin 8) (st : ScanDoneStatus) (s : State) :
    (joinScanDone k st s).slots = s.slots := by
  unfold joinScanDone
  dsimp only
  split <;> simp

@[simp] theorem completeStop_slots (k : Fin 8) (s : State) : (completeStop k s).slots = s.slots := by
  unfold completeStop
  split <;> simp

@[simp] theorem passComplete_slots (k : Fin 8) (s : State) : (passComplete k s).slots = s.slots := by
  unfold passComplete
  dsimp only
  repeat' split
  all_goals simp

@[simp] theorem passStage_slots (s : State) : (passStage s).slots = s.slots :=
  foldl_view State.slots _ (fun s k => passComplete_slots k s) _ _

@[simp] theorem deleteSqStage_slots (s : State) : (deleteSqStage s).slots = s.slots := by
  unfold deleteSqStage
  repeat' split
  all_goals simp

@[simp] theorem expire_slots (k : Fin 8) (s : State) : (expire k s).slots = s.slots := by
  unfold expire
  dsimp only
  repeat' split
  all_goals simp

@[simp] theorem expiryStage_slots (s : State) : (expiryStage s).slots = s.slots :=
  foldl_view State.slots _ (fun s k => expire_slots k s) _ _

@[simp] theorem adminFetchStage_slots (s : State) : (adminFetchStage s).slots = s.slots := by
  unfold adminFetchStage
  dsimp only
  split <;> rfl

@[simp] theorem beginWrite_slots (c : Fin 8) (s : State) : (beginWrite c s).slots = s.slots := by
  unfold beginWrite
  dsimp only
  repeat' split
  all_goals rfl

@[simp] theorem writeStage_slots (s : State) : (writeStage s).slots = s.slots :=
  foldl_view State.slots _ (fun s c => beginWrite_slots c s) _ _

/-- Freeing slot `i` empties it. -/
theorem freeSlot_slots (i : Fin 16) (s : State) :
    (freeSlot i s).slots = s.slots.put i none := by
  unfold freeSlot
  split
  · rename_i h
    apply Table.ext_look
    intro j
    by_cases e : j = i
    · subst e; simp [h]
    · simp [e]
  · dsimp only
    split <;> rfl

/-- Slots other than `i` stand through the hand-off of slot `i`. -/
theorem handOff_slots_ne {i j : Fin 16} (h : j ≠ i) (s : State) :
    (handOff i s).slots.look j = s.slots.look j := by
  unfold handOff
  repeat' split
  · rfl
  · simp
  · rw [freeSlot_slots]; simp [h]

/-- Slots other than `i` stand through the posting of slot `i`. -/
theorem postSlot_slots_ne {i j : Fin 16} (h : j ≠ i) (res : Result) (s : State) :
    (postSlot i res s).slots.look j = s.slots.look j := by
  unfold postSlot
  split
  · rfl
  · rw [handOff_slots_ne h]; simp [h]

/-- The lowest FREE slot is FREE. -/
theorem lowestFree_free {s : State} {i : Fin 16} (h : lowestFree s = some i) :
    s.slots.look i = none := by
  have := List.find?_some h
  simpa using this

/-- A fill changes the filled slot alone. -/
theorem fillFrom_slots_ne {i j : Fin 16} (h : j ≠ i) (n : Fin 15) (s : State) :
    (fillFrom i n s).slots.look j = s.slots.look j := by
  unfold fillFrom
  dsimp only
  repeat' split
  all_goals simp [h]

/-! ### Standing slots -/

theorem slotsStand_refl (l : List (Fin 16)) (s : State) : slotsStand l s s := fun _ _ _ h _ => h

theorem slotsStand_trans {l : List (Fin 16)} {s t u : State} (h : slotsStand l s t)
    (k : slotsStand l t u) : slotsStand l s u := fun i r hi hr hf => k i r hi (h i r hi hr hf) hf

theorem slotsStand_of_eq {s t : State} (h : t.slots = s.slots) : slotsStand [] s t :=
  fun _ _ _ hr _ => by rw [h]; exact hr

theorem slotsStand_mono {l m : List (Fin 16)} (hs : ∀ i, i ∈ l → i ∈ m) {s t : State}
    (h : slotsStand l s t) : slotsStand m s t := fun i r hi => h i r (fun e => hi (hs i e))

theorem slotsStand_foldl {α : Type} {f : State → α → State} (h : ∀ s a, slotsStand [] s (f s a))
    (l : List α) (s : State) : slotsStand [] s (l.foldl f s) := by
  induction l generalizing s with
  | nil => exact slotsStand_refl _ _
  | cons a l ih => exact slotsStand_trans (h s a) (ih _)

theorem fenceRelease_stand (i : Fin 16) (s : State) : slotsStand [] s (fenceRelease i s) := by
  unfold fenceRelease
  split
  · rename_i hf
    split
    · rename_i r hr
      intro j x _ hx hn
      by_cases e : j = i
      · subst e
        exfalso
        rw [hr] at hx
        cases hx
        unfold fenceOpen at hf
        rw [hr] at hf
        dsimp only at hf
        split at hf
        · rename_i hs _; exact hn hs
        · cases hf
      · rw [postSlot_slots_ne e]; exact hx
    · exact slotsStand_refl _ _
  · exact slotsStand_refl _ _

theorem fillOne_stand (s : State) : slotsStand [] s (fillOne s) := by
  unfold fillOne
  split
  · rename_i i c n hi _
    intro j x _ hx _
    have : j ≠ i := by
      intro e; subst e; rw [lowestFree_free hi] at hx; cases hx
    rw [fillFrom_slots_ne this]; exact hx
  · exact slotsStand_refl _ _

theorem fills_stand (n : Nat) (s : State) : slotsStand [] s (fills n s) := by
  induction n generalizing s with
  | zero => exact slotsStand_refl _ _
  | succ n ih => exact slotsStand_trans (fillOne_stand s) (ih _)

/-! ### Growing completion rings -/

theorem cqGrows_refl (d : Cq) : cqGrows d d := ⟨rfl, List.prefix_refl _, fun _ => rfl⟩

theorem cqGrows_trans {a b c : Cq} (h : cqGrows a b) (k : cqGrows b c) : cqGrows a c := by
  obtain ⟨h1, h2, h3⟩ := h
  obtain ⟨k1, k2, k3⟩ := k
  refine ⟨?_, h2.trans k2, fun w => ?_⟩
  · rw [k1, h1]
  · have := h3 w
    rw [k3 (by rw [this]; exact w), this]

theorem cqsGrow_refl (l : List (Fin 8)) (s : State) : cqsGrow l s s := fun _ _ => cqGrows_refl _

theorem cqsGrow_trans {l : List (Fin 8)} {s t u : State} (h : cqsGrow l s t) (k : cqsGrow l t u) :
    cqsGrow l s u := fun c hc => cqGrows_trans (h c hc) (k c hc)

theorem cqsGrow_of_eq {s t : State} (h : t.cqs = s.cqs) : cqsGrow [] s t :=
  fun c _ => by rw [h]; exact cqGrows_refl _

theorem cqsGrow_foldl {α : Type} {f : State → α → State} (h : ∀ s a, cqsGrow [] s (f s a))
    (l : List α) (s : State) : cqsGrow [] s (l.foldl f s) := by
  induction l generalizing s with
  | nil => exact cqsGrow_refl _ _
  | cons a l ih => exact cqsGrow_trans (h s a) (ih _)

theorem joinList_grow (c : Fin 8) (m : Member) (s : State) : cqsGrow [] s (joinList c m s) := by
  unfold joinList
  split
  · intro d _
    by_cases e : d = c
    · subst e
      simp [cqGrows]
    · simp [e, cqGrows_refl]
  · exact cqsGrow_refl _ _

@[simp] theorem freeSlot_cqs (i : Fin 16) (s : State) : (freeSlot i s).cqs = s.cqs := by
  unfold freeSlot
  repeat' split
  all_goals rfl

theorem handOff_grow (i : Fin 16) (s : State) : cqsGrow [] s (handOff i s) := by
  unfold handOff
  repeat' split
  · exact cqsGrow_refl _ _
  · exact joinList_grow _ _ _
  · exact cqsGrow_of_eq (freeSlot_cqs _ _)

theorem postSlot_grow (i : Fin 16) (res : Result) (s : State) : cqsGrow [] s (postSlot i res s) := by
  unfold postSlot
  split
  · exact cqsGrow_refl _ _
  · exact handOff_grow i (s.setSlot i _)

theorem completeWith_grow (status : AdminStatus) (aux : Nat) (value : Int) (sc : ScanState)
    (pass : Nat) (s : State) : cqsGrow [] s (completeWith status aux value sc pass s) := by
  unfold completeWith
  split
  · exact joinList_grow 0 _ s
  · exact cqsGrow_refl _ _

theorem fenceRelease_grow (i : Fin 16) (s : State) : cqsGrow [] s (fenceRelease i s) := by
  unfold fenceRelease
  split
  · split
    · exact postSlot_grow _ _ _
    · exact cqsGrow_refl _ _
  · exact cqsGrow_refl _ _

theorem joinScanDone_grow (k : Fin 8) (st : ScanDoneStatus) (s : State) :
    cqsGrow [] s (joinScanDone k st s) := by
  unfold joinScanDone
  dsimp only
  split
  · exact joinList_grow _ _ _
  · exact cqsGrow_refl _ _

theorem completeStop_grow (k : Fin 8) (s : State) : cqsGrow [] s (completeStop k s) := by
  unfold completeStop
  split
  · exact completeWith_grow _ _ _ _ _ s
  · exact cqsGrow_refl _ _

theorem passComplete_grow (k : Fin 8) (s : State) : cqsGrow [] s (passComplete k s) := by
  unfold passComplete
  dsimp only
  repeat' split
  · exact cqsGrow_refl _ _
  · exact joinScanDone_grow k _ (s.setScan k _)
  · exact cqsGrow_refl _ _
  · exact cqsGrow_trans (joinScanDone_grow k _ (s.setScan k _)) (completeStop_grow k _)
  · exact cqsGrow_refl _ _

theorem deleteSqStage_grow (s : State) : cqsGrow [] s (deleteSqStage s) := by
  unfold deleteSqStage
  repeat' split
  · exact completeWith_grow _ _ _ _ _ (s.setSq _ _)
  · exact cqsGrow_refl _ _
  · exact cqsGrow_refl _ _

@[simp] theorem expire_cqs (k : Fin 8) (s : State) : (expire k s).cqs = s.cqs := by
  unfold expire
  dsimp only
  repeat' split
  all_goals simp

@[simp] theorem expiryStage_cqs (s : State) : (expiryStage s).cqs = s.cqs :=
  foldl_view State.cqs _ (fun s k => expire_cqs k s) _ _

@[simp] theorem fillFrom_cqs (i : Fin 16) (n : Fin 15) (s : State) :
    (fillFrom i n s).cqs = s.cqs := by
  unfold fillFrom
  dsimp only
  repeat' split
  all_goals rfl

@[simp] theorem fillOne_cqs (s : State) : (fillOne s).cqs = s.cqs := by
  unfold fillOne
  repeat' split
  · exact fillFrom_cqs _ _ _
  · rfl

@[simp] theorem fills_cqs (n : Nat) (s : State) : (fills n s).cqs = s.cqs := by
  induction n generalizing s with
  | zero => rfl
  | succ n ih => exact (ih _).trans (fillOne_cqs s)

@[simp] theorem adminFetchStage_cqs (s : State) : (adminFetchStage s).cqs = s.cqs := by
  unfold adminFetchStage
  dsimp only
  split <;> rfl

theorem beginWrite_grow (c : Fin 8) (s : State) : cqsGrow [] s (beginWrite c s) := by
  unfold beginWrite
  dsimp only
  split
  · rename_i m ms hl hw
    split
    · intro d _
      by_cases e : d = c
      · subst e
        simp [cqGrows, hw]
      · simp [e, cqGrows_refl]
    · exact cqsGrow_refl _ _
  · exact cqsGrow_refl _ _

/-! ### Standing submission rings -/

@[simp] theorem joinList_sqs (c : Fin 8) (m : Member) (s : State) :
    (joinList c m s).sqs = s.sqs := by
  unfold joinList
  split <;> rfl

@[simp] theorem freeSlot_sqs (i : Fin 16) (s : State) : (freeSlot i s).sqs = s.sqs := by
  unfold freeSlot
  repeat' split
  all_goals rfl

@[simp] theorem handOff_sqs (i : Fin 16) (s : State) : (handOff i s).sqs = s.sqs := by
  unfold handOff
  repeat' split
  all_goals simp

@[simp] theorem postSlot_sqs (i : Fin 16) (res : Result) (s : State) :
    (postSlot i res s).sqs = s.sqs := by
  unfold postSlot
  split <;> simp

@[simp] theorem raiseEvent_sqs (kind : EventKind) (object : Nat) (value : Int) (s : State) :
    (raiseEvent kind object value s).sqs = s.sqs := by
  unfold raiseEvent
  split <;> rfl

@[simp] theorem completeWith_sqs (status : AdminStatus) (aux : Nat) (value : Int) (sc : ScanState)
    (pass : Nat) (s : State) : (completeWith status aux value sc pass s).sqs = s.sqs := by
  unfold completeWith
  split
  · exact joinList_sqs _ _ _
  · rfl

@[simp] theorem complete_sqs (status : AdminStatus) (aux : Nat) (value : Int) (s : State) :
    (complete status aux value s).sqs = s.sqs := completeWith_sqs ..

@[simp] theorem keepWork_sqs (w : AxWork) (s : State) : (keepWork w s).sqs = s.sqs := by
  unfold keepWork
  split <;> rfl

@[simp] theorem fenceRelease_sqs (i : Fin 16) (s : State) : (fenceRelease i s).sqs = s.sqs := by
  unfold fenceRelease
  repeat' split
  all_goals simp

@[simp] theorem fenceStage_sqs (s : State) : (fenceStage s).sqs = s.sqs :=
  foldl_view State.sqs _ (fun s i => fenceRelease_sqs i s) _ _

@[simp] theorem joinScanDone_sqs (k : Fin 8) (st : ScanDoneStatus) (s : State) :
    (joinScanDone k st s).sqs = s.sqs := by
  unfold joinScanDone
  dsimp only
  split <;> simp

@[simp] theorem completeStop_sqs (k : Fin 8) (s : State) : (completeStop k s).sqs = s.sqs := by
  unfold completeStop
  split <;> simp

@[simp] theorem passComplete_sqs (k : Fin 8) (s : State) : (passComplete k s).sqs = s.sqs := by
  unfold passComplete
  dsimp only
  repeat' split
  all_goals simp

@[simp] theorem passStage_sqs (s : State) : (passStage s).sqs = s.sqs :=
  foldl_view State.sqs _ (fun s k => passComplete_sqs k s) _ _

@[simp] theorem expire_sqs (k : Fin 8) (s : State) : (expire k s).sqs = s.sqs := by
  unfold expire
  dsimp only
  repeat' split
  all_goals simp

@[simp] theorem expiryStage_sqs (s : State) : (expiryStage s).sqs = s.sqs :=
  foldl_view State.sqs _ (fun s k => expire_sqs k s) _ _

@[simp] theorem fillFrom_sqs (i : Fin 16) (n : Fin 15) (s : State) :
    (fillFrom i n s).sqs = s.sqs := by
  unfold fillFrom
  dsimp only
  repeat' split
  all_goals rfl

@[simp] theorem fillOne_sqs (s : State) : (fillOne s).sqs = s.sqs := by
  unfold fillOne
  repeat' split
  · exact fillFrom_sqs _ _ _
  · rfl

@[simp] theorem fills_sqs (n : Nat) (s : State) : (fills n s).sqs = s.sqs := by
  induction n generalizing s with
  | zero => rfl
  | succ n ih => exact (ih _).trans (fillOne_sqs s)

@[simp] theorem adminFetchStage_sqs (s : State) : (adminFetchStage s).sqs = s.sqs := by
  unfold adminFetchStage
  dsimp only
  split <;> rfl

@[simp] theorem beginWrite_sqs (c : Fin 8) (s : State) : (beginWrite c s).sqs = s.sqs := by
  unfold beginWrite
  dsimp only
  repeat' split
  all_goals rfl

@[simp] theorem writeStage_sqs (s : State) : (writeStage s).sqs = s.sqs :=
  foldl_view State.sqs _ (fun s c => beginWrite_sqs c s) _ _

theorem sqsStand_refl (l : List (Fin 8)) (s : State) : sqsStand l s s := fun _ _ _ => rfl

theorem deleteSqStage_sqs_stand (s : State) : sqsStand [] s (deleteSqStage s) := by
  unfold deleteSqStage
  repeat' split
  · rename_i q n _ h
    intro p _ hp
    by_cases e : p = q
    · subst e; exact absurd h.1 hp
    · simp [e]
  · exact sqsStand_refl _ _
  · exact sqsStand_refl _ _

/-! ### The whole of `settle` while at work -/

theorem mem_allSlots : ∀ i, i ∈ allSlots := by decide

/-- No discard step falls due while a slot holds the halt back. -/
theorem heldBack_discard {s t : State} (h : s.heldBack) (st : slotsStand [] s t) :
    discardStage t = t := by
  obtain ⟨i, r, hr, hp, hf⟩ := h
  have ht := st i r (by simp) hr hf
  have : t.anySlot SlotRec.holdsHalt = true := by
    unfold State.anySlot
    rw [List.any_eq_true]
    refine ⟨i, ?_, ?_⟩
    · exact mem_allSlots i
    · simp [State.slotMeets, ht, SlotRec.holdsHalt, hp]
  simp [discardStage, discardDue, this]

/-- The steps of a state at work: no discard step, no start-up. -/
theorem settle_of_work {s : State} (h : s.device = .ready ∨ s.device = .halting ∧ s.heldBack) :
    settle s = writeStage (adminFetchStage (fillStage (expiryStage (deleteSqStage (passStage
      (fenceStage s)))))) := by
  rcases h with h | ⟨h, hb⟩
  · exact settle_of_ready h
  · have a : slotsStand [] s (fenceStage s) :=
      slotsStand_foldl (fun s i => fenceRelease_stand i s) _ _
    have b : slotsStand [] s (expiryStage (deleteSqStage (passStage (fenceStage s)))) :=
      slotsStand_trans a (slotsStand_of_eq (by simp))
    have e : (expiryStage (deleteSqStage (passStage (fenceStage s)))).device = .halting := by
      rw [aside_device (t := s) (by simp), h]
    unfold settle
    rw [heldBack_discard hb b, checkStage_idle (by rw [e]; decide),
      startUpStage_idle (by rw [e]; decide)]

/-- Everything aside stands through the steps of a state at work. -/
theorem settle_aside_work {s : State} (h : s.device = .ready ∨ s.device = .halting ∧ s.heldBack) :
    (settle s).aside = s.aside := by
  rw [settle_of_work h]; simp

/-- Occupied slots stand through them, FENCED MARKs apart. -/
theorem settle_slotsStand {s : State} (h : s.device = .ready ∨ s.device = .halting ∧ s.heldBack) :
    slotsStand [] s (settle s) := by
  rw [settle_of_work h]
  have a : slotsStand [] s (fenceStage s) :=
    slotsStand_foldl (fun s i => fenceRelease_stand i s) _ _
  have b : slotsStand [] (fenceStage s) (expiryStage (deleteSqStage (passStage (fenceStage s)))) :=
    slotsStand_of_eq (by simp)
  refine slotsStand_trans a (slotsStand_trans b (slotsStand_trans (fills_stand 16 _) ?_))
  exact slotsStand_of_eq (by simp [fillStage])

/-- Completion rings grow through them. -/
theorem settle_cqsGrow {s : State} (h : s.device = .ready ∨ s.device = .halting ∧ s.heldBack) :
    cqsGrow [] s (settle s) := by
  rw [settle_of_work h]
  have a : cqsGrow [] s (fenceStage s) := cqsGrow_foldl (fun s i => fenceRelease_grow i s) _ _
  have b : cqsGrow [] (fenceStage s) (passStage (fenceStage s)) :=
    cqsGrow_foldl (fun s i => passComplete_grow i s) _ _
  have c := deleteSqStage_grow (passStage (fenceStage s))
  refine cqsGrow_trans a (cqsGrow_trans b (cqsGrow_trans c ?_))
  refine cqsGrow_trans ?_ (cqsGrow_foldl (fun s c => beginWrite_grow c s) _ _)
  exact cqsGrow_of_eq (by simp [fillStage])

/-- Submission rings stand through them, a DELETING one apart. -/
theorem settle_sqsStand {s : State} (h : s.device = .ready ∨ s.device = .halting ∧ s.heldBack) :
    sqsStand [] s (settle s) := by
  rw [settle_of_work h]
  intro q hq hn
  simp only [writeStage_sqs, adminFetchStage_sqs, fillStage, fills_sqs, expiryStage_sqs]
  rw [deleteSqStage_sqs_stand _ q hq (by simpa using hn)]
  simp

/-- A command at work: its effect, then the steps. -/
theorem act_work {f : State → State} {s : State} (h : s.heldInReset = false) :
    act f s = .next (settle (f s)) := by simp [act, h]

end Sys2Proof.Machine
end

