-- ==== Sys2Proof/Laws/Work.lean ====
section
/-! SUPPORT. What the steps of a state at work leave as it stood beyond the slots and rings: the AX, the
examination due, the scans; and a command at work in one lemma. -/

namespace Sys2Proof.Machine

/-! ### The AX and a due examination -/

@[simp] theorem freeSlot_ax (i : Fin 16) (s : State) : (freeSlot i s).ax = s.ax := by
  unfold freeSlot
  repeat' split
  all_goals rfl

@[simp] theorem freeSlot_examDue (i : Fin 16) (s : State) : (freeSlot i s).examDue = s.examDue := by
  unfold freeSlot
  repeat' split
  all_goals rfl

@[simp] theorem joinList_ax (c : Fin 8) (m : Member) (s : State) : (joinList c m s).ax = s.ax := by
  unfold joinList
  split <;> rfl

@[simp] theorem joinList_examDue (c : Fin 8) (m : Member) (s : State) :
    (joinList c m s).examDue = s.examDue := by
  unfold joinList
  split <;> rfl

@[simp] theorem joinList_scans (c : Fin 8) (m : Member) (s : State) :
    (joinList c m s).scans = s.scans := by
  unfold joinList
  split <;> rfl

@[simp] theorem handOff_ax (i : Fin 16) (s : State) : (handOff i s).ax = s.ax := by
  unfold handOff
  repeat' split
  all_goals simp

@[simp] theorem handOff_examDue (i : Fin 16) (s : State) : (handOff i s).examDue = s.examDue := by
  unfold handOff
  repeat' split
  all_goals simp

@[simp] theorem postSlot_ax (i : Fin 16) (res : Result) (s : State) :
    (postSlot i res s).ax = s.ax := by
  unfold postSlot
  split <;> simp

@[simp] theorem postSlot_examDue (i : Fin 16) (res : Result) (s : State) :
    (postSlot i res s).examDue = s.examDue := by
  unfold postSlot
  split <;> simp

@[simp] theorem raiseEvent_ax (kind : EventKind) (object : Nat) (value : Int) (s : State) :
    (raiseEvent kind object value s).ax = s.ax := by
  unfold raiseEvent
  split <;> rfl

@[simp] theorem raiseEvent_examDue (kind : EventKind) (object : Nat) (value : Int) (s : State) :
    (raiseEvent kind object value s).examDue = s.examDue := by
  unfold raiseEvent
  split <;> rfl

@[simp] theorem raiseEvent_scans (kind : EventKind) (object : Nat) (value : Int) (s : State) :
    (raiseEvent kind object value s).scans = s.scans := by
  unfold raiseEvent
  split <;> rfl

@[simp] theorem completeWith_examDue (status : AdminStatus) (aux : Nat) (value : Int)
    (sc : ScanState) (pass : Nat) (s : State) :
    (completeWith status aux value sc pass s).examDue = s.examDue := by
  unfold completeWith
  split <;> simp

@[simp] theorem complete_examDue (status : AdminStatus) (aux : Nat) (value : Int) (s : State) :
    (complete status aux value s).examDue = s.examDue := completeWith_examDue ..

@[simp] theorem completeWith_scans (status : AdminStatus) (aux : Nat) (value : Int) (sc : ScanState)
    (pass : Nat) (s : State) : (completeWith status aux value sc pass s).scans = s.scans := by
  unfold completeWith
  split <;> simp

@[simp] theorem complete_scans (status : AdminStatus) (aux : Nat) (value : Int) (s : State) :
    (complete status aux value s).scans = s.scans := completeWith_scans ..

@[simp] theorem keepWork_examDue (w : AxWork) (s : State) : (keepWork w s).examDue = s.examDue := by
  unfold keepWork
  split <;> rfl

@[simp] theorem keepWork_scans (w : AxWork) (s : State) : (keepWork w s).scans = s.scans := by
  unfold keepWork
  split <;> rfl

@[simp] theorem joinScanDone_ax (k : Fin 8) (st : ScanDoneStatus) (s : State) :
    (joinScanDone k st s).ax = s.ax := by
  unfold joinScanDone
  dsimp only
  split <;> simp

@[simp] theorem joinScanDone_examDue (k : Fin 8) (st : ScanDoneStatus) (s : State) :
    (joinScanDone k st s).examDue = s.examDue := by
  unfold joinScanDone
  dsimp only
  split <;> simp

@[simp] theorem joinScanDone_scans (k : Fin 8) (st : ScanDoneStatus) (s : State) :
    (joinScanDone k st s).scans = s.scans := by
  unfold joinScanDone
  dsimp only
  split <;> simp

@[simp] theorem completeStop_examDue (k : Fin 8) (s : State) :
    (completeStop k s).examDue = s.examDue := by
  unfold completeStop
  split <;> simp

@[simp] theorem completeStop_scans (k : Fin 8) (s : State) : (completeStop k s).scans = s.scans := by
  unfold completeStop
  split <;> simp

@[simp] theorem fenceRelease_ax (i : Fin 16) (s : State) : (fenceRelease i s).ax = s.ax := by
  unfold fenceRelease
  repeat' split
  all_goals simp

@[simp] theorem fenceRelease_examDue (i : Fin 16) (s : State) :
    (fenceRelease i s).examDue = s.examDue := by
  unfold fenceRelease
  repeat' split
  all_goals simp

@[simp] theorem fenceStage_ax (s : State) : (fenceStage s).ax = s.ax :=
  foldl_view State.ax _ (fun s i => fenceRelease_ax i s) _ _

@[simp] theorem fenceStage_examDue (s : State) : (fenceStage s).examDue = s.examDue :=
  foldl_view State.examDue _ (fun s i => fenceRelease_examDue i s) _ _

@[simp] theorem passComplete_examDue (k : Fin 8) (s : State) :
    (passComplete k s).examDue = s.examDue := by
  unfold passComplete
  dsimp only
  repeat' split
  all_goals simp

@[simp] theorem passStage_examDue (s : State) : (passStage s).examDue = s.examDue :=
  foldl_view State.examDue _ (fun s k => passComplete_examDue k s) _ _

@[simp] theorem deleteSqStage_examDue (s : State) : (deleteSqStage s).examDue = s.examDue := by
  unfold deleteSqStage
  repeat' split
  all_goals simp

@[simp] theorem deleteSqStage_scans (s : State) : (deleteSqStage s).scans = s.scans := by
  unfold deleteSqStage
  repeat' split
  all_goals simp

@[simp] theorem expire_ax (k : Fin 8) (s : State) : (expire k s).ax = s.ax := by
  unfold expire
  dsimp only
  repeat' split
  all_goals rfl

@[simp] theorem expiryStage_ax (s : State) : (expiryStage s).ax = s.ax :=
  foldl_view State.ax _ (fun s k => expire_ax k s) _ _

@[simp] theorem expire_examDue (k : Fin 8) (s : State) : (expire k s).examDue = s.examDue := by
  unfold expire
  dsimp only
  repeat' split
  all_goals rfl

@[simp] theorem expiryStage_examDue (s : State) : (expiryStage s).examDue = s.examDue :=
  foldl_view State.examDue _ (fun s k => expire_examDue k s) _ _

@[simp] theorem fillFrom_ax (i : Fin 16) (n : Fin 15) (s : State) : (fillFrom i n s).ax = s.ax := by
  unfold fillFrom
  dsimp only
  repeat' split
  all_goals rfl

@[simp] theorem fillOne_ax (s : State) : (fillOne s).ax = s.ax := by
  unfold fillOne
  repeat' split
  · exact fillFrom_ax _ _ _
  · rfl

@[simp] theorem fills_ax (n : Nat) (s : State) : (fills n s).ax = s.ax := by
  induction n generalizing s with
  | zero => rfl
  | succ n ih => exact (ih _).trans (fillOne_ax s)

theorem fillOne_examDue {s : State} (h : s.examDue = true) : (fillOne s).examDue = true := by
  unfold fillOne
  repeat' split
  · unfold fillFrom
    dsimp only
    repeat' split
    all_goals first | exact h | rfl
  · exact h

theorem fills_examDue (n : Nat) {s : State} (h : s.examDue = true) :
    (fills n s).examDue = true := by
  induction n generalizing s with
  | zero => exact h
  | succ n ih => exact ih (fillOne_examDue h)

@[simp] theorem adminFetchStage_examDue (s : State) : (adminFetchStage s).examDue = s.examDue := by
  unfold adminFetchStage
  dsimp only
  split <;> rfl

@[simp] theorem adminFetchStage_scans (s : State) : (adminFetchStage s).scans = s.scans := by
  unfold adminFetchStage
  dsimp only
  split <;> rfl

@[simp] theorem beginWrite_ax (c : Fin 8) (s : State) : (beginWrite c s).ax = s.ax := by
  unfold beginWrite
  dsimp only
  repeat' split
  all_goals rfl

@[simp] theorem writeStage_ax (s : State) : (writeStage s).ax = s.ax :=
  foldl_view State.ax _ (fun s c => beginWrite_ax c s) _ _

@[simp] theorem beginWrite_examDue (c : Fin 8) (s : State) :
    (beginWrite c s).examDue = s.examDue := by
  unfold beginWrite
  dsimp only
  repeat' split
  all_goals rfl

@[simp] theorem writeStage_examDue (s : State) : (writeStage s).examDue = s.examDue :=
  foldl_view State.examDue _ (fun s c => beginWrite_examDue c s) _ _

@[simp] theorem beginWrite_scans (c : Fin 8) (s : State) : (beginWrite c s).scans = s.scans := by
  unfold beginWrite
  dsimp only
  repeat' split
  all_goals rfl

@[simp] theorem writeStage_scans (s : State) : (writeStage s).scans = s.scans :=
  foldl_view State.scans _ (fun s c => beginWrite_scans c s) _ _

/-- A due examination stays due through the steps of a state at work. -/
theorem settle_examDue {s : State} (h : s.device = .ready ∨ s.device = .halting ∧ s.heldBack)
    (e : s.examDue = true) : (settle s).examDue = true := by
  rw [settle_of_work h]
  simp only [writeStage_examDue, adminFetchStage_examDue]
  exact fills_examDue 16 (by simpa using e)

/-! ### The AX through the steps -/

/-- A pass completion changes the AX only by ending a command that waits for a stop. -/
theorem passComplete_ax (k : Fin 8) (s : State) (h : ∀ j, s.axWork ≠ .stopping j) :
    (passComplete k s).ax = s.ax := by
  unfold passComplete
  dsimp only
  repeat' split
  all_goals try rfl
  · simp
  · unfold completeStop
    rw [if_neg]
    · simp
    · have := h k
      simpa [State.axWork] using this

theorem passStage_ax (s : State) (h : ∀ j, s.axWork ≠ .stopping j) : (passStage s).ax = s.ax := by
  unfold passStage
  suffices ∀ (l : List (Fin 8)) (u : State), u.ax = s.ax →
      (l.foldl (fun s k => passComplete k s) u).ax = s.ax from this _ _ rfl
  intro l
  induction l with
  | nil => intro u hu; exact hu
  | cons a l ih =>
    intro u hu
    refine ih _ ?_
    rw [passComplete_ax _ _ (by simpa [State.axWork, hu] using h), hu]

theorem deleteSqStage_ax (s : State) (h : ∀ q n, s.axWork ≠ .deleting q n) :
    (deleteSqStage s).ax = s.ax := by
  unfold deleteSqStage
  split
  · rename_i q n hw
    exact absurd hw (h q n)
  · rfl

theorem adminFetchStage_ax (s : State) (h : s.ax ≠ .idle) : (adminFetchStage s).ax = s.ax := by
  simp [adminFetchStage, h]

/-- An AX that is not IDLE and whose command waits for no stop and no deletion stands. -/
theorem settle_ax {s : State} (h : s.device = .ready ∨ s.device = .halting ∧ s.heldBack)
    (hi : s.ax ≠ .idle) (hs : ∀ j, s.axWork ≠ .stopping j) (hd : ∀ q n, s.axWork ≠ .deleting q n) :
    (settle s).ax = s.ax := by
  rw [settle_of_work h]
  have e1 : (fenceStage s).ax = s.ax := by simp
  have e2 : (passStage (fenceStage s)).ax = s.ax := by
    rw [passStage_ax _ (by simpa [State.axWork, e1] using hs), e1]
  have e3 : (deleteSqStage (passStage (fenceStage s))).ax = s.ax := by
    rw [deleteSqStage_ax _ (by simpa [State.axWork, e2] using hd), e2]
  have e4 : (fillStage (expiryStage (deleteSqStage (passStage (fenceStage s))))).ax = s.ax := by
    simp [fillStage, e3]
  rw [writeStage_ax, adminFetchStage_ax _ (by rw [e4]; exact hi), e4]

/-- An AX POSTING stands. -/
theorem settle_posting {s : State} (h : s.device = .ready ∨ s.device = .halting ∧ s.heldBack)
    (hp : s.ax.isPosting = true) : (settle s).ax = s.ax := by
  rcases e : s.ax with _ | _ | _ | ctx <;> simp [e, Ax.isPosting] at hp
  rw [← e]
  exact settle_ax h (by simp [e]) (by simp [State.axWork, e]) (by simp [State.axWork, e])

/-- An IDLE AX is IDLE or FETCHING afterwards. -/
theorem settle_idle {s : State} (h : s.device = .ready ∨ s.device = .halting ∧ s.heldBack)
    (hi : s.ax = .idle) : (settle s).ax = .idle ∨ ∃ index, (settle s).ax = .fetching index := by
  rw [settle_of_work h]
  have e1 : (fenceStage s).ax = .idle := by simp [hi]
  have e2 : (passStage (fenceStage s)).ax = .idle := by
    rw [passStage_ax _ (by simp [State.axWork, hi]), e1]
  have e3 : (deleteSqStage (passStage (fenceStage s))).ax = .idle := by
    rw [deleteSqStage_ax _ (by simp [State.axWork, e2]), e2]
  have e4 : (fillStage (expiryStage (deleteSqStage (passStage (fenceStage s))))).ax = .idle := by
    simp [fillStage, e3]
  rw [writeStage_ax]
  unfold adminFetchStage
  dsimp only
  split
  · exact .inr ⟨_, rfl⟩
  · exact .inl e4

/-! ### A command at work -/

/-- What a command at work leaves beyond its own effect: everything aside, the occupied slots but
FENCED MARKs, the submission rings but DELETING ones, and completion rings that at most grow. -/
theorem act_next {f : State → State} {s : State} (h : s.heldInReset = false)
    (hw : (f s).device = .ready ∨ (f s).device = .halting ∧ (f s).heldBack) :
    ∃ t, act f s = .next t ∧ t = settle (f s) ∧ t.aside = (f s).aside ∧ slotsStand [] (f s) t
      ∧ sqsStand [] (f s) t ∧ cqsGrow [] (f s) t :=
  ⟨_, act_work h, rfl, settle_aside_work hw, settle_slotsStand hw, settle_sqsStand hw,
    settle_cqsGrow hw⟩

/-- Whether a state is at work depends on its device state and slots alone. -/
theorem heldBack_of_slots {s t : State} (h : s.heldBack) (e : t.slots = s.slots) : t.heldBack := by
  obtain ⟨i, r, hr, h1, h2⟩ := h
  exact ⟨i, r, by rw [e]; exact hr, h1, h2⟩

end Sys2Proof.Machine
end

