-- ==== Sys2Proof/Laws/Queues.lean ====
section
/-! SUPPORT. The posting lists and the slots in one lemma each: merging of events, an event raised, a
slot posted, what a slot that returned to FREE can hold after the event. -/

namespace Sys2Proof.Machine

/-! ### Slots -/

theorem anySlot_true {s : State} {p : SlotRec → Bool} {j : Fin 16} {x : SlotRec}
    (h : s.slots.look j = some x) (hp : p x = true) : s.anySlot p = true := by
  unfold State.anySlot
  rw [List.any_eq_true]
  exact ⟨j, mem_allSlots j, by simp [State.slotMeets, h, hp]⟩

theorem anySlot_false {s : State} {p : SlotRec → Bool} :
    s.anySlot p = false ↔ ∀ j x, s.slots.look j = some x → p x = false := by
  unfold State.anySlot
  rw [List.any_eq_false]
  constructor
  · intro h j x hx
    simpa [State.slotMeets, hx] using h j (mem_allSlots j)
  · intro h j _
    simp only [State.slotMeets]
    split
    · rename_i r hr
      simp [h j r hr]
    · simp

theorem setSlot_stand (s : State) (i : Fin 16) (x : Option SlotRec) :
    slotsStand [i] s (s.setSlot i x) := by
  intro j r hj hr _
  simp at hj
  simp [hj, hr]

theorem eighth_val {n : Nat} (h : n ≤ 7) : (eighth n).val = n := by
  simp only [eighth]
  omega

theorem seqEarlier_irrefl (a : BitVec 32) : seqEarlier a a = false := by simp [seqEarlier]

/-! ### Merging of events (R193) -/

/-- With no waiting event of the kind and object there is nothing to merge into. -/
theorem mergeEvent_none {kind : EventKind} {object : Nat} :
    ∀ {l : List Member}, (kind, object) ∉ l.filterMap Member.eventKey →
      mergeEvent kind object l = none := by
  intro l
  induction l with
  | nil => simp [mergeEvent]
  | cons m l ih =>
    intro h
    have h' : (kind, object) ∉ l.filterMap Member.eventKey := by
      intro x
      apply h
      rw [List.filterMap_cons]
      split
      · exact x
      · exact List.mem_cons_of_mem _ x
    have := ih h'
    cases m <;> simp [mergeEvent, this]
    intro a b
    apply h
    simp [Member.eventKey, a, b]

/-- Otherwise the first waiting event of the kind and object takes the occurrence. -/
theorem mergeEvent_some {kind : EventKind} {object : Nat} :
    ∀ {l : List Member}, (kind, object) ∈ l.filterMap Member.eventKey →
      ∃ before e after, l = before ++ .event e :: after ∧ e.kind = kind ∧ e.object = object
        ∧ (kind, object) ∉ before.filterMap Member.eventKey
        ∧ mergeEvent kind object l
          = some (before ++ .event { e with mergeCount := min 255 (e.mergeCount + 1) } :: after) := by
  intro l
  induction l with
  | nil => simp
  | cons m l ih =>
    intro h
    by_cases hm : m.eventKey = some (kind, object)
    · cases m <;> simp [Member.eventKey] at hm
      rename_i e
      exact ⟨[], e, l, rfl, hm.1, hm.2, by simp, by simp [mergeEvent, hm]⟩
    · have h' : (kind, object) ∈ l.filterMap Member.eventKey := by
        cases m <;> simp [Member.eventKey, List.filterMap_cons] at h hm ⊢
        all_goals try exact h
        rcases h with ⟨a, b⟩ | h
        · exact absurd b.symm (hm a.symm)
        · exact h
      obtain ⟨b, e, a, h1, h2, h3, h4, h5⟩ := ih h'
      refine ⟨m :: b, e, a, by simp [h1], h2, h3, ?_, ?_⟩
      · cases m <;> simp [Member.eventKey, List.filterMap_cons] at hm h4 ⊢
        all_goals try exact h4
        exact ⟨fun a b => hm a.symm b.symm, h4⟩
      · cases m <;> simp [mergeEvent, h5]
        simp [Member.eventKey] at hm
        intro a b
        exact absurd b (hm a)

/-- The member in write and the waiting members make up the list. -/
theorem inWrite_append_waiting (d : Cq) : d.inWrite ++ d.waiting = d.list := by
  unfold Cq.inWrite Cq.waiting
  split
  · exact List.take_append_drop 1 d.list
  · simp

/-! ### An event raised, a slot posted -/

/-- A raised event changes CQ0's descriptor alone (R192). -/
theorem raiseEvent_cqs (kind : EventKind) (object : Nat) (value : Int) {s : State}
    (h : (s.cqs.look 0).state = .active) :
    (raiseEvent kind object value s).cqs
      = s.cqs.put 0 ((s.cqs.look 0).withEvent kind object value) := by
  simp [raiseEvent, h]

/-- Rings that grow from a state whose CQ0 has taken an occurrence. -/
theorem raised_of_grow {s u t : State} {kind : EventKind} {object : Nat} {value : Int}
    (e : u.cqs = s.cqs.put 0 ((s.cqs.look 0).withEvent kind object value)) (g : cqsGrow [] u t) :
    cqsGrow [0] s t ∧ raised kind object value s t := by
  constructor
  · intro c hc
    have := g c (by simp)
    rw [e] at this
    simp at hc
    simpa [hc] using this
  · have := g 0 (by simp)
    rw [e] at this
    simpa [raised] using this

/-- A slot of an ACTIVE target CQ that enters POSTING joins its list (R38). -/
theorem postSlot_active {i : Fin 16} {r : SlotRec} {res : Result} {s : State}
    (h : s.slots.look i = some r) (ha : (s.cqs.look r.targetCq).state = .active)
    (ho : r.orphaned = false) :
    postSlot i res s
      = (s.setSlot i (some { r with state := .posting, result := some res })).setCq r.targetCq
          { s.cqs.look r.targetCq with list := (s.cqs.look r.targetCq).list ++ [.slot i] } := by
  simp [postSlot, h, handOff, ha, ho, joinList]

/-- Otherwise it returns to FREE (R38). -/
theorem postSlot_gone {i : Fin 16} {r : SlotRec} {res : Result} {s : State}
    (h : s.slots.look i = some r)
    (ha : (s.cqs.look r.targetCq).state ≠ .active ∨ r.orphaned = true) :
    (postSlot i res s).slots.look i = none := by
  rcases ha with ha | ha <;> simp [postSlot, h, handOff, ha, freeSlot_slots]

theorem cqGrows_prefix {d d' : Cq} (h : cqGrows d d') {l : List Member} (hl : l <+: d.list) :
    l <+: d'.list := hl.trans h.2.1

/-! ### A slot that returns to FREE within the event -/

/-- What a slot that was FREE can hold once the fills are done: nothing, or a record just filled. -/
def freshSlot (u : State) (i : Fin 16) : Prop :=
  ∀ x, u.slots.look i = some x →
    (x.state = .fetching ∨ x.state = .waiting) ∧ x.result = none ∧ x.pendingAbort = none

theorem fillOne_fresh (s : State) (i : Fin 16) :
    (fillOne s).slots.look i = s.slots.look i ∨ freshSlot (fillOne s) i := by
  unfold fillOne
  split
  · rename_i j c n hj _
    by_cases h : i = j
    · subst h
      unfold fillFrom
      dsimp only
      repeat' split
      · right
        intro x hx
        simp [State.setSlot] at hx
        subst hx
        simp [fetchingRec]
      · right
        intro x hx
        simp [State.setSlot, State.setScan] at hx
        subst hx
        simp [templateRec]
      · left
        rfl
    · left
      rw [fillFrom_slots_ne h]
  · left
    rfl

theorem fills_fresh (n : Nat) (s : State) (i : Fin 16) (h : freshSlot s i) :
    freshSlot (fills n s) i := by
  induction n generalizing s with
  | zero => exact h
  | succ n ih =>
    apply ih
    rcases fillOne_fresh s i with e | e
    · intro x hx
      exact h x (by rw [← e]; exact hx)
    · exact e

theorem fenceRelease_free (j i : Fin 16) (s : State) (h : s.slots.look i = none) :
    (fenceRelease j s).slots.look i = none := by
  unfold fenceRelease
  split
  · split
    · by_cases e : i = j
      · subst e
        rename_i r hr
        rw [h] at hr
        cases hr
      · rw [postSlot_slots_ne e]
        exact h
    · exact h
  · exact h

theorem fenceStage_free (i : Fin 16) (s : State) (h : s.slots.look i = none) :
    (fenceStage s).slots.look i = none := by
  have : ∀ (l : List (Fin 16)) (u : State), u.slots.look i = none →
      (l.foldl (fun s j => fenceRelease j s) u).slots.look i = none := by
    intro l
    induction l with
    | nil => exact fun u hu => hu
    | cons a l ih => exact fun u hu => ih _ (fenceRelease_free a i u hu)
  exact this s.age s h

/-- A slot that a command at work has freed is FREE afterwards or holds a record just filled. -/
theorem settle_fresh {s : State} (hw : s.device = .ready ∨ s.device = .halting ∧ s.heldBack)
    (i : Fin 16) (h : s.slots.look i = none) : freshSlot (settle s) i := by
  rw [settle_of_work hw]
  intro x hx
  simp only [writeStage_slots, adminFetchStage_slots] at hx
  refine fills_fresh 16 _ i ?_ x hx
  intro y hy
  simp only [expiryStage_slots, deleteSqStage_slots, passStage_slots] at hy
  rw [fenceStage_free i s h] at hy
  cases hy

end Sys2Proof.Machine
end

