-- ==== Sys2Proof/Laws/Claims.lean ====
section
/-! SUPPORT. The claim arbiter in one lemma each: what a grant that is found rests on (R49, R51), what
the claim records hold after claims are taken and dropped (R52, R58), what a grant does to the slots
(R55). -/

namespace Sys2Proof.Machine

/-! ### What a grant rests on -/

/-- The first grant names a slot of examination order and what that slot would be granted. -/
theorem firstGrant_found {s : State} {i : Fin 16} {g : Grant} (h : firstGrant s = some (i, g)) :
    i ∈ examOrder s ∧ grantFor s i = some g := by
  unfold firstGrant at h
  rw [List.findSome?_eq_some_iff] at h
  obtain ⟨l1, a, l2, h1, h2, -⟩ := h
  simp only [Option.map_eq_some_iff, Prod.mk.injEq] at h2
  obtain ⟨g', h2, rfl, rfl⟩ := h2
  exact ⟨by rw [h1]; simp, h2⟩

/-- A slot of examination order is WAITING. -/
theorem waiting_of_examOrder {s : State} {i : Fin 16} (h : i ∈ examOrder s) :
    ∃ r, s.slots.look i = some r ∧ r.state = .waiting := by
  unfold examOrder at h
  simp only [List.mem_flatMap, List.mem_filter] at h
  obtain ⟨c, -, -, h⟩ := h
  unfold State.slotMeets at h
  split at h
  · rename_i r hr
    simp only [SlotRec.waitsInClass, Bool.and_eq_true, beq_iff_eq] at h
    exact ⟨r, hr, h.1⟩
  · cases h

/-- The converter chosen for a grant is one of the two candidates. -/
theorem chooseConv_candidate {s : State} {g : Range} {p : Conv → Bool} {c : Conv}
    (h : chooseConv s g (p .ca) (p .cb) = some c) : p c = true := by
  unfold chooseConv at h
  split at h
  · cases h
  · cases h
    assumption
  · cases h
    assumption
  · split at h <;> cases h <;> assumption

/-- A grant gives a slot a converter its need set can be met with, and the first grantable source. -/
theorem grantFor_found {s : State} {i : Fin 16} {g : Grant} (h : grantFor s i = some g) :
    ∃ r ns, s.slots.look i = some r ∧ r.needSet = some ns
      ∧ canMeet s (reservedAgainst s i) ns g.conv = true
      ∧ g.source = (grantableSources s (reservedAgainst s i) ns).head? := by
  unfold grantFor at h
  split at h
  · cases h
  · rename_i r hr
    split at h
    · cases h
    · rename_i m hm
      simp only [Option.map_eq_some_iff] at h
      obtain ⟨c, hc, rfl⟩ := h
      exact ⟨r, m, hr, hm, chooseConv_candidate hc, rfl⟩

/-- A need set that can be met finds its converter free and each terminal open to its claim. -/
theorem canMeet_free {s : State} {res : List NeedSet} {ns : NeedSet} {c : Conv}
    (h : canMeet s res ns c = true) :
    s.convClaims.look c = .free ∧ ∀ x ∈ ns.terms, termFits (s.termClaims.look x.1) x.2 c = true := by
  unfold canMeet at h
  simp only [Bool.and_eq_true, beq_iff_eq, List.all_eq_true] at h
  exact ⟨h.1.1.1.1.2, h.1.1.1.2⟩

theorem mem_grantableSources {s : State} {res : List NeedSet} {ns : NeedSet} {x : SourceId} :
    x ∈ grantableSources s res ns ↔
      ns.source.takes x = true ∧ s.sourceClaims.look x = none
        ∧ ∀ b, b ∈ res → b.source.takes x = false := by
  unfold grantableSources
  simp only [List.mem_filter, Bool.and_eq_true, Option.isNone_iff_eq_none, Bool.not_eq_true',
    List.any_eq_false]
  constructor
  · rintro ⟨-, ⟨a, b⟩, c⟩
    exact ⟨a, b, fun y hy => by simpa using c y hy⟩
  · rintro ⟨a, b, c⟩
    exact ⟨by cases x <;> simp, ⟨a, b⟩, fun y hy => by simpa using c y hy⟩

/-! ### Claims taken and dropped -/

theorem addClaims_cons (i : Fin 16) (c : Conv) (x : Fin 16 × ClaimKind)
    (l : List (Fin 16 × ClaimKind)) (t : Table TermClaim 16) :
    addClaims i c (x :: l) t = addClaims i c l (t.put x.1 (addClaim i c x.2 (t.look x.1))) := rfl

theorem dropClaims_cons (i : Fin 16) (x : Fin 16 × ClaimKind) (l : List (Fin 16 × ClaimKind))
    (t : Table TermClaim 16) :
    dropClaims i (x :: l) t = dropClaims i l (t.put x.1 (dropClaim i (t.look x.1))) := rfl

/-- Claims leave a terminal that the need set does not name. -/
theorem addClaims_other (i : Fin 16) (c : Conv) (terms : List (Fin 16 × ClaimKind))
    (t : Table TermClaim 16) (x : Fin 16) (h : x ∉ terms.map Prod.fst) :
    (addClaims i c terms t).look x = t.look x := by
  induction terms generalizing t with
  | nil => rfl
  | cons a l ih =>
    simp only [List.map_cons, List.mem_cons, not_or] at h
    rw [addClaims_cons, ih _ h.2]
    simp [h.1]

/-- A terminal of a need set with distinct terminals takes its one claim. -/
theorem addClaims_mem (i : Fin 16) (c : Conv) (terms : List (Fin 16 × ClaimKind))
    (t : Table TermClaim 16) (x : Fin 16) (k : ClaimKind) (hd : (terms.map Prod.fst).Nodup)
    (h : (x, k) ∈ terms) : (addClaims i c terms t).look x = addClaim i c k (t.look x) := by
  induction terms generalizing t with
  | nil => cases h
  | cons a l ih =>
    simp only [List.map_cons, List.nodup_cons] at hd
    rw [addClaims_cons]
    rcases List.mem_cons.1 h with rfl | h
    · rw [addClaims_other _ _ _ _ _ hd.1]
      simp
    · rw [ih _ hd.2 h]
      have : x ≠ a.1 := by
        intro he
        apply hd.1
        rw [← he]
        exact List.mem_map_of_mem h
      simp [this]

/-- Claims that fit leave a DRIVE claim. -/
theorem addClaims_drive {i j x : Fin 16} {c : Conv} {terms : List (Fin 16 × ClaimKind)}
    {t : Table TermClaim 16} (hfit : ∀ y ∈ terms, termFits (t.look y.1) y.2 c = true)
    (h : t.look x = .drive j) : (addClaims i c terms t).look x = .drive j := by
  rw [addClaims_other _ _ _ _ _ ?_, h]
  intro hm
  obtain ⟨y, hy, rfl⟩ := List.mem_map.1 hm
  have := hfit y hy
  rw [h] at this
  cases hk : y.2 <;> simp [hk, termFits] at this

/-- SENSE claims that join a terminal leave the holders it has. -/
theorem addClaims_sense {i x : Fin 16} {c : Conv} {terms : List (Fin 16 × ClaimKind)}
    {p : Fin 16 × Conv} :
    ∀ {t : Table TermClaim 16} {hs}, (∀ y ∈ terms, y.1 = x → y.2 = .sense) →
      t.look x = .sense hs → p ∈ hs →
        ∃ hs', (addClaims i c terms t).look x = .sense hs' ∧ p ∈ hs' := by
  induction terms with
  | nil => exact fun _ h hp => ⟨_, h, hp⟩
  | cons a l ih =>
    intro t hs hk h hp
    rw [addClaims_cons]
    by_cases ha : x = a.1
    · subst ha
      have := hk a (by simp) rfl
      exact ih (t := _) (hs := hs ++ [(i, c)]) (fun y hy => hk y (by simp [hy]))
        (by simp [addClaim, this, h]) (by simp [hp])
    · exact ih (fun y hy => hk y (by simp [hy])) (by simpa [ha] using h) hp

/-- Slot `i` holds no claim in a terminal's record. -/
def TermClaim.without (i : Fin 16) (t : TermClaim) : Prop :=
  t ≠ .drive i ∧ ∀ hs, t = .sense hs → ∀ d, (i, d) ∉ hs

theorem dropClaim_without (i : Fin 16) (t : TermClaim) : (dropClaim i t).without i := by
  cases t with
  | free => simp [dropClaim, TermClaim.without]
  | drive j =>
    simp only [dropClaim, TermClaim.without]
    split <;> simp_all
  | sense hs =>
    simp only [dropClaim, TermClaim.without]
    split
    · simp
    · rename_i h l e
      refine ⟨by simp, ?_⟩
      intro hs' he d hm
      cases he
      rw [← e] at hm
      simp at hm

theorem dropClaims_keeps_without (i : Fin 16) (terms : List (Fin 16 × ClaimKind)) :
    ∀ (t : Table TermClaim 16) (x : Fin 16), (t.look x).without i →
      ((dropClaims i terms t).look x).without i := by
  induction terms with
  | nil => exact fun t x h => h
  | cons a l ih =>
    intro t x h
    rw [dropClaims_cons]
    apply ih
    rw [Table.look_put]
    split
    · exact dropClaim_without i _
    · exact h

/-- A release leaves the slot no claim on a terminal of its need set (R58). -/
theorem dropClaims_without (i : Fin 16) (terms : List (Fin 16 × ClaimKind)) :
    ∀ (t : Table TermClaim 16) (x : Fin 16), x ∈ terms.map Prod.fst →
      ((dropClaims i terms t).look x).without i := by
  induction terms with
  | nil => exact fun t x h => nomatch h
  | cons a l ih =>
    intro t x h
    rw [dropClaims_cons]
    by_cases e : x = a.1
    · apply dropClaims_keeps_without
      rw [e]
      simpa using dropClaim_without i _
    · refine ih _ x ?_
      simpa [e] using h

/-! ### A grant and the slots -/

theorem bypassed_same (r : SlotRec) :
    r.bypassed.state = r.state ∧ r.bypassed.request = r.request ∧ r.bypassed.needSet = r.needSet
      ∧ r.bypassed.origin = r.origin ∧ r.bypassed.grant = r.grant := by
  unfold SlotRec.bypassed
  split <;> simp

/-- A grant puts the slot into SETTLING and lets every other slot see it granted (R52, R55). -/
theorem grantSlot_slots {i : Fin 16} {g : Grant} {s : State} {r : SlotRec} {q : Request}
    (hr : s.slots.look i = some r) (hq : r.request = some q) (j : Fin 16) :
    (grantSlot i g s).slots.look j
      = if j = i then some { r with state := .settling, grant := some g, blocking := false }
        else (s.slots.look j).map SlotRec.bypassed := by
  simp [grantSlot, hr, hq]

theorem grants_found {n : Nat} {s : State} {i : Fin 16} {g : Grant}
    (h : firstGrant s = some (i, g)) : grants (n + 1) s = grants n (grantSlot i g s) := by
  simp [grants, h]

theorem grants_none {n : Nat} {s : State} (h : firstGrant s = none) : grants n s = s := by
  cases n <;> simp [grants, h]

end Sys2Proof.Machine
end

