-- ==== Sys2Proof/Laws/Rest.lean ====
section
/-! SUPPORT. The steps within an event while no slot is occupied, every ring is NONE, no scan runs and
the AX is IDLE: none stands in OFF and FAULT, and in STARTING only the start-up checks and the end of
start-up do. -/

namespace Sys2Proof.Machine

/-- Nothing is at work: the part of `DeviceLaw` about OFF, STARTING and FAULT. -/
def State.empty (s : State) : Prop :=
  (∀ i, s.slots.look i = none) ∧ (∀ q, s.sqs.look q = Sq.gone) ∧ (∀ c, s.cqs.look c = Cq.gone)
    ∧ (∀ k, (s.scans.look k).state = .empty ∨ (s.scans.look k).state = .loaded)
    ∧ s.ax = .idle

theorem DeviceLaw.empty {s : State} (h : DeviceLaw s) (w : s.device.works = false) : s.empty := by
  obtain ⟨h, -⟩ := h
  obtain ⟨a, b, c, d, e, -⟩ := h w
  exact ⟨a, b, c, d, e⟩

theorem foldl_fixed {α : Type} (f : State → α → State) (s : State) (h : ∀ a, f s a = s)
    (l : List α) : l.foldl f s = s := by
  induction l with
  | nil => rfl
  | cons a l ih => rw [List.foldl_cons, h a, ih]

theorem empty_fences {s : State} (h : s.empty) : fenceStage s = s :=
  foldl_fixed _ s (fun i => by simp [fenceRelease, fenceOpen, h.1 i]) _

theorem empty_passes {s : State} (h : s.empty) : passStage s = s := by
  refine foldl_fixed _ s (fun k => ?_) _
  unfold passComplete
  dsimp only
  split
  · rfl
  · rcases h.2.2.2.1 k with e | e <;> rw [e]

theorem empty_deletes {s : State} (h : s.empty) : deleteSqStage s = s := by
  simp [deleteSqStage, State.axWork, h.2.2.2.2]

theorem empty_expiries {s : State} (h : s.empty) : expiryStage s = s := by
  refine foldl_fixed _ s (fun k => ?_) _
  unfold expire
  dsimp only
  rw [if_neg]
  rintro ⟨_, e, _⟩
  rcases h.2.2.2.1 k with e' | e' <;> rw [e'] at e <;> cases e

/-- With no eligible source no slot is filled. -/
theorem fills_none {s : State} (h : ∀ n, eligible s n = false) (n : Nat) : fills n s = s := by
  have p : pickSource s = none := by
    unfold pickSource
    rw [List.findSome?_eq_none_iff]
    intro c _
    rw [Option.map_eq_none_iff]
    unfold pickInClass
    rw [List.find?_eq_none]
    intro m _
    simp [h m]
  have o : fillOne s = s := by
    unfold fillOne
    rw [p]
    split <;> simp_all
  induction n with
  | zero => rfl
  | succ n ih =>
    unfold fills
    rw [o, ih]

theorem fills_off {s : State} (h : s.device ≠ .ready) (n : Nat) : fills n s = s := by
  refine fills_none (fun m => ?_) n
  unfold eligible
  split
  · simp [sqEligible, h]
  · simp [scanEligible, h]

theorem adminFetch_off {s : State} (h : s.device ≠ .ready) : adminFetchStage s = s := by
  simp [adminFetchStage, h]

theorem empty_writes {s : State} (h : ∀ c, (s.cqs.look c).list = []) : writeStage s = s :=
  foldl_fixed _ s (fun c => by simp [beginWrite, h c]) _

/-- In OFF and FAULT no step stands. -/
theorem settle_off {s : State} (h : s.device = .off ∨ s.device = .fault) (e : s.empty) :
    settle s = s := by
  have r : s.device ≠ .ready := by rcases h with h | h <;> rw [h] <;> decide
  rw [settle_of_rest h, empty_fences e, empty_passes e, empty_deletes e, empty_expiries e,
    fillStage, fills_off r, adminFetch_off r, empty_writes (fun c => by rw [e.2.2.1 c]; rfl)]

theorem startCheck_parts (c : Conv) (s : State) :
    (startCheck c s).device = s.device ∧ (startCheck c s).slots = s.slots
      ∧ (startCheck c s).sqs = s.sqs ∧ (startCheck c s).cqs = s.cqs
      ∧ (startCheck c s).scans = s.scans ∧ (startCheck c s).ax = s.ax := by
  unfold startCheck
  dsimp only
  split <;> exact ⟨rfl, rfl, rfl, rfl, rfl, rfl⟩

theorem checkStage_parts (s : State) :
    (checkStage s).device = s.device ∧ (checkStage s).slots = s.slots
      ∧ (checkStage s).sqs = s.sqs ∧ (checkStage s).cqs = s.cqs
      ∧ (checkStage s).scans = s.scans ∧ (checkStage s).ax = s.ax := by
  obtain ⟨a1, a2, a3, a4, a5, a6⟩ := startCheck_parts .ca s
  obtain ⟨b1, b2, b3, b4, b5, b6⟩ := startCheck_parts .cb (startCheck .ca s)
  exact ⟨b1.trans a1, b2.trans a2, b3.trans a3, b4.trans a4, b5.trans a5, b6.trans a6⟩

/-- In STARTING only the start-up steps stand. -/
theorem settle_starting {s : State} (h : s.device = .starting) (e : s.empty) :
    settle s = startUpStage (checkStage s) := by
  unfold settle
  rw [empty_fences e, empty_passes e, empty_deletes e, empty_expiries e,
    discardStage_idle (by rw [h]; decide)]
  obtain ⟨a1, a2, a3, a4, a5, a6⟩ := checkStage_parts s
  generalize checkStage s = u at *
  have hu : u.device = .starting := a1.trans h
  unfold startUpStage
  split
  · split
    · -- READY with both administrative rings empty
      have hs : ∀ q, ((enterReady u).sqs.look q).head = ((enterReady u).sqs.look q).tail := by
        intro q
        simp only [enterReady, Table.look_put]
        split
        · rfl
        · rw [a3, e.2.1]; rfl
      have hc : ∀ c, ((enterReady u).cqs.look c).list = [] := by
        intro c
        simp only [enterReady, Table.look_put]
        split
        · rfl
        · rw [a4, e.2.2.1]; rfl
      have he : ∀ n, eligible (enterReady u) n = false := by
        intro n
        unfold eligible
        split
        · simp [sqEligible, hs]
        · rename_i k _
          have : (enterReady u).scans = s.scans := a5
          unfold scanEligible
          rw [this]
          rcases e.2.2.2.1 k with e' | e' <;> simp [e']
      rw [fillStage, fills_none he]
      have ha : adminFetchStage (enterReady u) = enterReady u := by
        simp [adminFetchStage, hs]
      rw [ha, empty_writes hc]
    · have r : ({ u with device := .off, checks := { ca := .notDue, cb := .notDue } } : State).device
          ≠ .ready := by intro x; cases x
      rw [fillStage, fills_off r, adminFetch_off r, empty_writes]
      intro c
      show (u.cqs.look c).list = []
      rw [a4, e.2.2.1]; rfl
  · have r : u.device ≠ .ready := by rw [hu]; decide
    rw [fillStage, fills_off r, adminFetch_off r, empty_writes]
    intro c
    rw [a4, e.2.2.1]; rfl

end Sys2Proof.Machine
end

