-- ==== Sys2Proof/Laws/Scans.lean ====
section
/-! SUPPORT. What the steps within an event can do to the scan records, to age order, to the rotation
pointers and to the due examination while the device is at work. -/

namespace Sys2Proof.Machine

/-! ### The scan records, stage by stage -/

/-- A fence frees slots of SQs alone. -/
@[simp] theorem fenceRelease_scans (i : Fin 16) (s : State) : (fenceRelease i s).scans = s.scans := by
  unfold fenceRelease
  split
  · rename_i h
    split
    · rename_i r hr
      unfold fenceOpen at h
      rw [hr] at h
      dsimp only at h
      split at h
      · rename_i ho
        unfold postSlot
        rw [hr]
        dsimp only
        unfold handOff
        simp only [State.setSlot_slots, Table.look_put_same]
        split
        · simp
        · unfold freeSlot
          simp [ho]
      · cases h
    · rfl
  · rfl

@[simp] theorem fenceStage_scans (s : State) : (fenceStage s).scans = s.scans :=
  foldl_view State.scans _ (fun s i => fenceRelease_scans i s) _ _

/-- What a pass completion can make of a scan record. -/
def passed (a b : Scan) : Prop :=
  b = a ∨ b = a.loadedNow ∧ a.inProgress = false
    ∧ (a.state = .running ∧ a.passLimit ≠ 0 ∧ a.remaining = 0 ∨ a.state = .stopping)

theorem passComplete_passed (k : Fin 8) (s : State) (j : Fin 8) :
    passed (s.scans.look j) ((passComplete k s).scans.look j) := by
  by_cases e : j = k
  · subst e
    unfold passComplete
    dsimp only
    split
    · exact .inl rfl
    · rename_i hp
      have hp : (s.scans.look j).inProgress = false := by simpa using hp
      split
      · rename_i hs
        split
        · rename_i h
          exact .inr ⟨by simp, hp, .inl ⟨hs, h.2⟩⟩
        · exact .inl rfl
      · rename_i hs
        exact .inr ⟨by simp, hp, .inr hs⟩
      · exact .inl rfl
  · refine .inl ?_
    unfold passComplete
    dsimp only
    repeat' split
    all_goals simp [e]

theorem passed_trans {a b c : Scan} (h : passed a b) (k : passed b c) : passed a c := by
  rcases h with rfl | ⟨rfl, h⟩
  · exact k
  · rcases k with rfl | ⟨-, -, ⟨k, -⟩ | k⟩
    · exact .inr ⟨rfl, h⟩
    · cases k
    · cases k

theorem passStage_passed (s : State) (j : Fin 8) :
    passed (s.scans.look j) ((passStage s).scans.look j) := by
  have : ∀ (l : List (Fin 8)) (u : State),
      passed (u.scans.look j) ((l.foldl (fun s k => passComplete k s) u).scans.look j) := by
    intro l
    induction l with
    | nil => exact fun u => .inl rfl
    | cons a l ih => exact fun u => passed_trans (passComplete_passed a u j) (ih _)
  exact this _ s

/-- What an expiry can make of a scan record. -/
def expired (a b : Scan) : Prop :=
  b = a ∨ (a.state = .running ∧ a.counting = true ∧ a.countdown = 0)
    ∧ b = { a with
        remaining := b.remaining, countdown := b.countdown, counting := b.counting,
        passNumber := b.passNumber, nextTemplate := b.nextTemplate, overruns := b.overruns }

theorem expire_expired (k : Fin 8) (s : State) (j : Fin 8) :
    expired (s.scans.look j) ((expire k s).scans.look j) := by
  unfold expire
  dsimp only
  by_cases e : j = k
  · subst e
    split
    · rename_i h
      split
      · exact .inr ⟨h.2, by simp⟩
      · exact .inr ⟨h.2, by simp [Scan.startPass]⟩
    · exact .inl rfl
  · repeat' split
    all_goals exact .inl (by simp [e])

theorem expired_trans {a b c : Scan} (h : expired a b) (k : expired b c) : expired a c := by
  rcases h with rfl | ⟨h1, h2⟩
  · exact k
  · rcases k with rfl | ⟨-, k⟩
    · exact .inr ⟨h1, h2⟩
    · refine .inr ⟨h1, ?_⟩
      rw [h2] at k
      exact k

theorem expiryStage_expired (s : State) (j : Fin 8) :
    expired (s.scans.look j) ((expiryStage s).scans.look j) := by
  have : ∀ (l : List (Fin 8)) (u : State),
      expired (u.scans.look j) ((l.foldl (fun s k => expire k s) u).scans.look j) := by
    intro l
    induction l with
    | nil => exact fun u => .inl rfl
    | cons a l ih => exact fun u => expired_trans (expire_expired a u j) (ih _)
  exact this _ s

/-- What the fills can make of a scan record. -/
def filled (a b : Scan) : Prop :=
  b = a ∨ (a.state = .running ∨ a.state = .stopping)
    ∧ ∃ n, b = { a with nextTemplate := a.nextTemplate + n, outstanding := a.outstanding + n }

/-- The source that the slot arbiter picks is eligible, and of the class. -/
theorem pickSource_eligible {s : State} {c : Fin 4} {n : Fin 15} (h : pickSource s = some (c, n)) :
    eligible s n = true ∧ sourceClass s n = c := by
  unfold pickSource at h
  rw [List.findSome?_eq_some_iff] at h
  obtain ⟨-, d, -, -, h, -⟩ := h
  obtain ⟨m, hm, he⟩ := Option.map_eq_some_iff.1 h
  cases he
  have := List.find?_some hm
  simpa using this

theorem fillOne_filled (s : State) (j : Fin 8) :
    filled (s.scans.look j) ((fillOne s).scans.look j) := by
  unfold fillOne
  split
  · rename_i i c n _ hp
    have he := (pickSource_eligible hp).1
    unfold eligible at he
    unfold fillFrom
    split at he
    · rename_i q hq
      exact .inl rfl
    · rename_i k hk
      dsimp only
      split
      · by_cases e : j = k
        · subst e
          refine .inr ⟨?_, 1, by simp⟩
          unfold scanEligible at he
          simp only [Bool.and_eq_true, Bool.or_eq_true, beq_iff_eq] at he
          exact he.1.1.1.2
        · exact .inl (by simp [e])
      · exact .inl rfl
  · exact .inl rfl

theorem filled_trans {a b c : Scan} (h : filled a b) (k : filled b c) : filled a c := by
  rcases h with rfl | ⟨h, n, rfl⟩
  · exact k
  · rcases k with rfl | ⟨-, m, rfl⟩
    · exact .inr ⟨h, n, rfl⟩
    · exact .inr ⟨h, n + m, by simp [Nat.add_assoc]⟩

theorem fills_filled (n : Nat) (s : State) (j : Fin 8) :
    filled (s.scans.look j) ((fills n s).scans.look j) := by
  induction n generalizing s with
  | zero => exact .inl rfl
  | succ n ih => exact filled_trans (fillOne_filled s j) (ih _)

/-- Through a pass completion, an expiry and fills a scan stands. -/
theorem scanStands_of_stages {a b c d : Scan} (h : passed a b) (k : expired b c) (l : filled c d) :
    scanStands a d := by
  have run : a.state ≠ .running → a.state ≠ .stopping → d = a := by
    intro h1 h2
    rcases h with rfl | ⟨-, -, ⟨h, -⟩ | h⟩
    · rcases k with rfl | ⟨k, -⟩
      · rcases l with rfl | ⟨l | l, -⟩
        · rfl
        · exact absurd l h1
        · exact absurd l h2
      · exact absurd k.1 h1
    · exact absurd h h1
    · exact absurd h h2
  have static : d = { a with
      state := d.state, remaining := d.remaining, countdown := d.countdown, counting := d.counting,
      passNumber := d.passNumber, nextTemplate := d.nextTemplate, outstanding := d.outstanding,
      overruns := d.overruns } ∧ (d.state = a.state ∨ d.state = .loaded) := by
    have e1 : c = { b with
        remaining := c.remaining, countdown := c.countdown, counting := c.counting,
        passNumber := c.passNumber, nextTemplate := c.nextTemplate, overruns := c.overruns } := by
      rcases k with rfl | ⟨-, k⟩
      · rfl
      · exact k
    have e2 : d = { c with nextTemplate := d.nextTemplate, outstanding := d.outstanding } := by
      rcases l with rfl | ⟨-, n, rfl⟩ <;> rfl
    rw [e1] at e2
    rcases h with rfl | ⟨rfl, -⟩
    · rw [e2]
      exact ⟨rfl, .inl rfl⟩
    · rw [e2]
      exact ⟨rfl, .inr rfl⟩
  refine ⟨run, ?_, static.1, static.2⟩
  intro hc hw
  have hb : b = a := by
    rcases h with h | ⟨-, hp, h⟩
    · exact h
    · exfalso
      have : ¬ (a.nextTemplate < a.count ∨ 0 < a.outstanding) := by
        simpa [Scan.inProgress] using hp
      rcases hw with w | w | ⟨w, v⟩
      · exact this (.inl w)
      · exact this (.inr w)
      · rcases h with ⟨-, h1, h2⟩ | h
        · rcases v with v | v
          · exact h1 v
          · exact v h2
        · rw [h] at w
          cases w
  subst hb
  have hc : c = b := by
    rcases k with k | ⟨k, -⟩
    · exact k
    · exact absurd k.2.2 (hc k.2.1)
  subst hc
  rcases l with rfl | ⟨-, n, l⟩
  · exact ⟨0, rfl⟩
  · exact ⟨n, l⟩

/-- Every scan stands through the steps of a state at work. -/
theorem settle_scansStand {s : State} (h : s.device = .ready ∨ s.device = .halting ∧ s.heldBack) :
    scansStand [] s (settle s) := by
  intro k _
  rw [settle_of_work h]
  simp only [writeStage_scans, adminFetchStage_scans]
  have a := passStage_passed (fenceStage s) k
  have b := expiryStage_expired (deleteSqStage (passStage (fenceStage s))) k
  rw [fenceStage_scans] at a
  rw [deleteSqStage_scans] at b
  exact scanStands_of_stages a b (fills_filled 16 _ k)

/-! ### Age order, the rotation pointers and the due examination -/

/-- The fills from `s` to `t` have put the slots of `joined`, all of them FREE, at the end of age order. -/
def joinedBy (joined : List (Fin 16)) (s t : State) : Prop :=
  t.age = s.age ++ joined
    ∧ (∀ i, i ∈ joined → s.slots.look i = none ∧ ∃ x, t.slots.look i = some x ∧ admittedAnew t x)
    ∧ (t.examDue = true ↔ s.examDue = true
        ∨ ∃ i x, i ∈ joined ∧ t.slots.look i = some x ∧ x.state = .waiting)

/-- Each class's pointer stands, or names the source of a slot of `joined`. -/
def turnedBy (joined : List (Fin 16)) (s t : State) : Prop :=
  ∀ c, t.rotation.look c = s.rotation.look c
    ∨ ∃ i x, i ∈ joined ∧ t.slots.look i = some x ∧ x.cls = c
        ∧ x.fromSource (sourceAt (t.rotation.look c)) = true

/-- Every scan's templates lie in template memory. -/
def placed (s : State) : Prop :=
  ∀ k, 0 < (s.scans.look k).count →
    (s.scans.look k).first + (s.scans.look k).count ≤ s.templates.length

theorem fillOne_occupied {s : State} {j : Fin 16} {r : SlotRec} (h : s.slots.look j = some r) :
    (fillOne s).slots.look j = some r := by
  unfold fillOne
  split
  · rename_i i c n hi _
    have : j ≠ i := by
      intro e; subst e; rw [lowestFree_free hi] at h; cases h
    rw [fillFrom_slots_ne this]; exact h
  · exact h

theorem fills_occupied (n : Nat) {s : State} {j : Fin 16} {r : SlotRec}
    (h : s.slots.look j = some r) : (fills n s).slots.look j = some r := by
  induction n generalizing s with
  | zero => exact h
  | succ n ih => exact ih (fillOne_occupied h)

@[simp] theorem fillOne_templates (s : State) : (fillOne s).templates = s.templates := by
  unfold fillOne
  split
  · unfold fillFrom
    dsimp only
    repeat' split
    all_goals rfl
  · rfl

theorem filled_placed {s t : State} (h : ∀ j, filled (s.scans.look j) (t.scans.look j))
    (e : t.templates = s.templates) (p : placed s) : placed t := by
  intro k
  rw [e]
  have := p k
  rcases h k with h | ⟨-, n, h⟩ <;> rw [h] <;> exact this

/-- What one fill does. -/
theorem fillOne_joined (s : State) :
    ∃ joined, joinedBy joined s (fillOne s) ∧ (placed s → turnedBy joined s (fillOne s)) := by
  have none : ∀ t : State, t.age = s.age → t.examDue = s.examDue →
      (placed s → ∀ c, t.rotation.look c = s.rotation.look c) →
      ∃ joined, joinedBy joined s t ∧ (placed s → turnedBy joined s t) := fun t h1 h2 h3 =>
    ⟨[], ⟨by simp [h1], by simp, by simp [h2]⟩, fun p c => .inl (h3 p c)⟩
  unfold fillOne
  split
  · rename_i i c n hi hp
    obtain ⟨he, hc⟩ := pickSource_eligible hp
    have free := lowestFree_free hi
    unfold eligible at he
    unfold sourceClass at hc
    unfold fillFrom
    split at he
    · rename_i q hq
      rw [hq] at hc
      dsimp only at hc
      unfold sqEligible at he
      simp only [Bool.and_eq_true, beq_iff_eq, bne_iff_ne] at he
      refine ⟨[i], ⟨rfl, ?_, ?_⟩, fun _ d => ?_⟩
      · intro j hj
        simp at hj
        subst hj
        refine ⟨free, _, by simp; rfl, ?_⟩
        simp [admittedAnew, fetchingRec]
        exact ⟨he.1.1.1.1.1.2, he.1.1.1.1.2⟩
      · simp [fetchingRec]
      · by_cases e : d = c
        · subst e
          refine .inr ⟨i, _, by simp, by simp; rfl, ?_, ?_⟩
          · simpa [fetchingRec] using hc
          · simp [hq, SlotRec.fromSource, SlotRec.fromSq, fetchingRec]
        · exact .inl (by simp [e])
    · rename_i k hk
      rw [hk] at hc
      dsimp only at hc
      unfold scanEligible at he
      simp only [Bool.and_eq_true, Bool.or_eq_true, beq_iff_eq, decide_eq_true_eq] at he
      obtain ⟨⟨⟨⟨-, hs⟩, hn⟩, -⟩, ht⟩ := he
      dsimp only
      split
      · rename_i cq x hcq hx
        refine ⟨[i], ⟨rfl, ?_, ?_⟩, fun _ d => ?_⟩
        · intro j hj
          simp at hj
          subst hj
          refine ⟨free, _, by simp; rfl, ?_⟩
          simpa [admittedAnew, templateRec] using hs
        · simp [templateRec]
        · by_cases e : d = c
          · subst e
            refine .inr ⟨i, _, by simp, by simp; rfl, ?_, ?_⟩
            · simpa [templateRec] using hc
            · simp [hk, SlotRec.fromSource, SlotRec.fromScan, templateRec]
          · exact .inl (by simp [e])
      · rename_i hno
        refine none _ rfl rfl fun p => ?_
        exfalso
        have := p k (by omega)
        rcases hq : (s.scans.look k).target with _ | cq
        · rw [hq] at ht
          cases ht
        · have hl : (s.scans.look k).first + (s.scans.look k).nextTemplate < s.templates.length := by
            omega
          exact hno cq _ hq (by simp [templateOf, hl]; rfl)
  · exact none _ rfl rfl fun _ _ => rfl

theorem admittedAnew_of_filled {s t : State} {x : SlotRec} (e : t.sqs = s.sqs)
    (h : ∀ j, filled (s.scans.look j) (t.scans.look j)) (a : admittedAnew s x) :
    admittedAnew t x := by
  have hs : ∀ j, (t.scans.look j).state = (s.scans.look j).state := by
    intro j
    rcases h j with h | ⟨-, n, h⟩ <;> rw [h]
  simpa [admittedAnew, e, hs] using a

/-- What the fills do. -/
theorem fills_joined (n : Nat) (s : State) :
    ∃ joined, joinedBy joined s (fills n s) ∧ (placed s → turnedBy joined s (fills n s)) := by
  induction n generalizing s with
  | zero => exact ⟨[], ⟨by simp [fills], by simp, by simp [fills]⟩, fun _ c => .inl rfl⟩
  | succ n ih =>
    obtain ⟨l, ⟨a1, a2, a3⟩, a4⟩ := fillOne_joined s
    obtain ⟨m, ⟨b1, b2, b3⟩, b4⟩ := ih (fillOne s)
    have keep : ∀ i x, i ∈ l → (fillOne s).slots.look i = some x →
        (fills n (fillOne s)).slots.look i = some x := fun i x _ => fills_occupied n
    have same : ∀ i x, i ∈ l → (fills n (fillOne s)).slots.look i = some x →
        (fillOne s).slots.look i = some x := by
      intro i x hi hx
      obtain ⟨-, y, hy, -⟩ := a2 i hi
      rw [fills_occupied n hy] at hx
      rw [hy, hx]
    refine ⟨l ++ m, ⟨?_, ?_, ?_⟩, fun p c => ?_⟩
    · simp only [fills, b1, a1, List.append_assoc]
    · intro i hi
      rcases List.mem_append.1 hi with hi | hi
      · obtain ⟨h, x, hx, hn⟩ := a2 i hi
        exact ⟨h, x, keep i x hi hx,
          admittedAnew_of_filled (fills_sqs n _) (fills_filled n _) hn⟩
      · obtain ⟨h, r⟩ := b2 i hi
        refine ⟨?_, r⟩
        rcases hs : s.slots.look i with _ | y
        · rfl
        · rw [fillOne_occupied hs] at h
          cases h
    · show (fills n (fillOne s)).examDue = true ↔ _
      rw [b3, a3]
      constructor
      · rintro ((h | ⟨i, x, hi, hx, hw⟩) | ⟨i, x, hi, hx, hw⟩)
        · exact .inl h
        · exact .inr ⟨i, x, List.mem_append_left _ hi, keep i x hi hx, hw⟩
        · exact .inr ⟨i, x, List.mem_append_right _ hi, hx, hw⟩
      · rintro (h | ⟨i, x, hi, hx, hw⟩)
        · exact .inl (.inl h)
        · rcases List.mem_append.1 hi with hi | hi
          · exact .inl (.inr ⟨i, x, hi, same i x hi hx, hw⟩)
          · exact .inr ⟨i, x, hi, hx, hw⟩
    · rcases b4 (filled_placed (fillOne_filled s) (fillOne_templates s) p) c with h | h
      · rcases a4 p c with k | ⟨i, x, hi, hx, hc, hf⟩
        · exact .inl (h.trans k)
        · exact .inr ⟨i, x, List.mem_append_left _ hi, keep i x hi hx, hc, by
            show x.fromSource (sourceAt ((fills n (fillOne s)).rotation.look c)) = true
            rw [h]; exact hf⟩
      · obtain ⟨i, x, hi, r⟩ := h
        exact .inr ⟨i, x, List.mem_append_right _ hi, r⟩

/-- The fields that the slot arbiter alone moves. -/
def arbiterView (s : State) : List (Fin 16) × Table (Fin 15) 4 × Bool :=
  (s.age, s.rotation, s.examDue)

@[simp] theorem setCq_arbiterView (s : State) (c : Fin 8) (d : Cq) :
    arbiterView (s.setCq c d) = arbiterView s := rfl

@[simp] theorem setSq_arbiterView (s : State) (q : Fin 8) (d : Sq) :
    arbiterView (s.setSq q d) = arbiterView s := rfl

@[simp] theorem setScan_arbiterView (s : State) (k : Fin 8) (d : Scan) :
    arbiterView (s.setScan k d) = arbiterView s := rfl

@[simp] theorem joinList_arbiterView (c : Fin 8) (m : Member) (s : State) :
    arbiterView (joinList c m s) = arbiterView s := by
  unfold joinList
  split <;> rfl

@[simp] theorem completeWith_arbiterView (status : AdminStatus) (aux : Nat) (value : Int)
    (sc : ScanState) (pass : Nat) (s : State) :
    arbiterView (completeWith status aux value sc pass s) = arbiterView s := by
  unfold completeWith
  split
  · exact joinList_arbiterView 0 _ s
  · rfl

@[simp] theorem passComplete_arbiterView (k : Fin 8) (s : State) :
    arbiterView (passComplete k s) = arbiterView s := by
  unfold passComplete joinScanDone completeStop complete
  dsimp only
  repeat' split
  all_goals simp

@[simp] theorem passStage_arbiterView (s : State) : arbiterView (passStage s) = arbiterView s :=
  foldl_view arbiterView _ (fun s k => passComplete_arbiterView k s) _ _

@[simp] theorem deleteSqStage_arbiterView (s : State) :
    arbiterView (deleteSqStage s) = arbiterView s := by
  unfold deleteSqStage complete
  repeat' split
  all_goals simp

@[simp] theorem expire_arbiterView (k : Fin 8) (s : State) :
    arbiterView (expire k s) = arbiterView s := by
  unfold expire
  dsimp only
  repeat' split
  all_goals rfl

@[simp] theorem expiryStage_arbiterView (s : State) : arbiterView (expiryStage s) = arbiterView s :=
  foldl_view arbiterView _ (fun s k => expire_arbiterView k s) _ _

@[simp] theorem adminFetchStage_arbiterView (s : State) :
    arbiterView (adminFetchStage s) = arbiterView s := by
  unfold adminFetchStage
  dsimp only
  split <;> rfl

@[simp] theorem writeStage_arbiterView (s : State) : arbiterView (writeStage s) = arbiterView s := by
  refine foldl_view arbiterView _ (fun s c => ?_) _ _
  unfold beginWrite
  dsimp only
  repeat' split
  all_goals rfl

/-- A fence takes slots out of age order and moves no pointer. -/
theorem fenceRelease_age (i : Fin 16) (s : State) :
    (fenceRelease i s).age.Sublist s.age ∧ (fenceRelease i s).rotation = s.rotation := by
  unfold fenceRelease
  split
  · split
    · unfold postSlot
      split
      · exact ⟨List.Sublist.refl _, rfl⟩
      · unfold handOff
        simp only [State.setSlot_slots, Table.look_put_same]
        split
        · unfold joinList
          split <;> exact ⟨List.Sublist.refl _, rfl⟩
        · unfold freeSlot
          simp only [State.setSlot_slots, Table.look_put_same]
          split <;> exact ⟨List.erase_sublist, rfl⟩
    · exact ⟨List.Sublist.refl _, rfl⟩
  · exact ⟨List.Sublist.refl _, rfl⟩

theorem fenceStage_age (s : State) :
    (fenceStage s).age.Sublist s.age ∧ (fenceStage s).rotation = s.rotation := by
  have : ∀ (l : List (Fin 16)) (u : State), (l.foldl (fun s i => fenceRelease i s) u).age.Sublist u.age
      ∧ (l.foldl (fun s i => fenceRelease i s) u).rotation = u.rotation := by
    intro l
    induction l with
    | nil => exact fun u => ⟨List.Sublist.refl _, rfl⟩
    | cons a l ih =>
      intro u
      obtain ⟨h1, h2⟩ := fenceRelease_age a u
      obtain ⟨k1, k2⟩ := ih (fenceRelease a u)
      exact ⟨k1.trans h1, k2.trans h2⟩
  exact this s.age s

theorem passed_expired_placed {s t u : State} (h : ∀ j, passed (s.scans.look j) (t.scans.look j))
    (k : ∀ j, expired (t.scans.look j) (u.scans.look j)) (e : u.templates = s.templates)
    (p : placed s) : placed u := by
  intro j
  rw [e]
  have := p j
  have a : (t.scans.look j).first = (s.scans.look j).first
      ∧ (t.scans.look j).count = (s.scans.look j).count := by
    rcases h j with h | ⟨h, -⟩ <;> rw [h] <;> exact ⟨rfl, rfl⟩
  have b : (u.scans.look j).first = (t.scans.look j).first
      ∧ (u.scans.look j).count = (t.scans.look j).count := by
    rcases k j with k | ⟨-, k⟩ <;> rw [k] <;> exact ⟨rfl, rfl⟩
  rw [b.1, b.2, a.1, a.2]
  exact this

/-- From a state at work, the steps move age order, the rotation pointers and the due examination by
fills alone; `u` is the state after the command's own effect on `s`. -/
theorem settle_onlyFilled {s u : State} (h : u.device = .ready ∨ u.device = .halting ∧ u.heldBack)
    (hs : u.slots = s.slots) (hv : arbiterView u = arbiterView s) (hp : ScanLaw s → placed u) :
    onlyFilled s (settle u) := by
  obtain ⟨ha, hr, he⟩ : u.age = s.age ∧ u.rotation = s.rotation ∧ u.examDue = s.examDue := by
    simpa [arbiterView] using hv
  rw [settle_of_work h]
  generalize hw : expiryStage (deleteSqStage (passStage (fenceStage u))) = w
  have wv : arbiterView w = arbiterView (fenceStage u) := by subst hw; simp
  obtain ⟨wa, wr, we⟩ : w.age = (fenceStage u).age ∧ w.rotation = (fenceStage u).rotation
      ∧ w.examDue = (fenceStage u).examDue := by simpa [arbiterView] using wv
  obtain ⟨fa, fr⟩ := fenceStage_age u
  have wl : w.slots = (fenceStage u).slots := by subst hw; simp
  have wp : placed u → placed w := by
    subst hw
    intro p
    refine passed_expired_placed (t := passStage (fenceStage u)) (fun j => ?_) (fun j => ?_) ?_ p
    · simpa using passStage_passed (fenceStage u) j
    · simpa using expiryStage_expired (deleteSqStage (passStage (fenceStage u))) j
    · have : (expiryStage (deleteSqStage (passStage (fenceStage u)))).aside = u.aside := by simp
      simp only [State.aside, Prod.mk.injEq] at this
      exact this.2.2.2.1
  obtain ⟨joined, ⟨a1, a2, a3⟩, a4⟩ := fills_joined 16 w
  generalize hz : writeStage (adminFetchStage (fillStage w)) = z
  have zv : arbiterView z = arbiterView (fills 16 w) := by subst hz; simp [fillStage]
  obtain ⟨za, zr, ze⟩ : z.age = (fills 16 w).age ∧ z.rotation = (fills 16 w).rotation
      ∧ z.examDue = (fills 16 w).examDue := by simpa [arbiterView] using zv
  have zl : z.slots = (fills 16 w).slots := by subst hz; simp [fillStage]
  have zq : z.sqs = (fills 16 w).sqs := by subst hz; simp [fillStage]
  have zc : z.scans = (fills 16 w).scans := by subst hz; simp [fillStage]
  refine ⟨joined, ⟨w.age, by rw [za, a1], ?_, fun i hi => ?_⟩, ?_, fun law c => ?_⟩
  · rw [wa, ← ha]
    exact fa
  · obtain ⟨hf, x, hx, hn⟩ := a2 i hi
    refine ⟨fun e => ?_, x, by rw [zl]; exact hx, ?_⟩
    · rw [zl, hx, ← hs] at e
      have nf : x.state ≠ .fenced := by
        rcases hn.2.2.2.2.2.2.2.2.2.2.2 with h | h <;> rw [h.1] <;> decide
      have := slotsStand_foldl (fun s i => fenceRelease_stand i s) u.age u i x (by simp) e nf
      rw [wl] at hf
      rw [show (fenceStage u).slots.look i = some x from this] at hf
      cases hf
    · simpa [admittedAnew, zq, zc] using hn
  · rw [ze, zl, a3, we]
    simp [he]
  · rw [zr, zl]
    rcases a4 (wp (hp law)) c with k | k
    · left
      rw [k, wr, fr, hr]
    · exact .inr k

/-- Scans placed as the law of template memory says. -/
theorem ScanLaw.placed {s : State} (h : ScanLaw s) : placed s := fun k => (h.2.2.1 k).1

end Sys2Proof.Machine
end

