-- ==== Sys2Proof/WellFormed.lean ====
section
/-! DEFINITION. Which commands can arise at all: operands that the named event can have. A command
that is not well formed has no effect, or the effect its meaning says (notes/assumptions/3). -/

namespace Sys2Proof

/-- A zero crossing is detected at the end of a count (R80) and comes before 1.25 N counts, at most 249,999
for AP0 (R81). -/
def crossingPossible (counts : Nat) : Bool := 1 ≤ counts && counts < 250000

/-- A SCAN_LOAD read carries 1 to 32 images (R139, R140). -/
def imagesPossible (images : Option (List Entry)) : Bool :=
  match images with
  | none => true
  | some es => 1 ≤ es.length && es.length ≤ 32

/-- An OPCODE that names no admin command (R183, R203). -/
def opcodeUnknown (opcode : Byte) : Bool := !(0x10 ≤ opcode.toNat && opcode.toNat ≤ 0x1B)

/-- The registers of the window are 32 bits wide and stand at the multiples of 4 from 0x00 to 0x1C
(R194). -/
def offsetPossible (offset : BitVec 5) : Bool := offset.toNat % 4 == 0

/-- Well-formed commands. -/
def Instr.wellFormed : Instr → Bool
  | .runDownEnd _ counts => crossingPossible counts
  | .scanLoadDmaDone images => imagesPossible images
  | .invalidOpcode _ opcode => opcodeUnknown opcode
  | .registerWrite offset _ => offsetPossible offset
  | .powerOnReset | .softReset | .enableOn _ | .enableOff _ | .leaveFault _ | .intEnableWrite _
  | .submit _ _ | .release _ _ | .intPendingClear _ | .slotFill
  | .sqFetchDone _ _ | .sqFetchBusError _ | .fenceRelease _ | .examination | .settlingEnd _
  | .autozeroEnd _ _ | .runUpEnd _ _ | .runDownOverrange _ | .rangingEnd _ | .recoveryEnd _
  | .correctionEnd _ | .writeBegin _ | .recordWriteDone _ | .cqWriteBusError _ | .adminFetchStart
  | .adminFetchDone _ _ | .adminFetchBusError | .identify _ _ | .createCq _ _ _ _ _ _ _
  | .deleteCq _ _ | .createSq _ _ _ _ _ _ _ | .deleteSq _ _ | .abort _ _ _ _ | .calRead _ _ _
  | .calWrite _ _ _ _ _ _ _ | .scanLoad _ _ _ _ | .scanStart _ _ _ _ _ _ _ | .scanStop _ _
  | .scanStatus _ _ | .identifyDmaDone _ | .calReadDmaDone _ | .deleteSqEnd | .passCompletion _
  | .timebaseTick | .countdownExpiry _ | .coalescingTimerExpiry _ | .shadowLoadDone
  | .startUpRefCheckStart _ | .startUpEnd | .discardStep | .chargeEnd _ | .pulseEnd _ | .verifyEnd _
  | .rstNHeldLow => true

end Sys2Proof
end

