-- ==== Sys2Proof/Tests/Slice0.lean ====
section
/-! SUPPORT. Tests: ill-formed commands refused, the worked examples of spec/, single steps on small
states, and for every statement with hypotheses a theorem that shows them met. -/

namespace Sys2Proof.Tests

open Sys2Proof.Machine

-- One theorem after another: each waits for the kernel, and a hundred waiting threads take memory.
set_option Elab.async false

/-! ### Ill-formed commands -/

theorem test_crossing_at_the_limit_ill_formed : (Instr.runDownEnd .ca 250000).wellFormed = false := by
  decide

theorem test_crossing_after_no_count_ill_formed : (Instr.runDownEnd .ca 0).wellFormed = false := by decide

theorem test_no_images_ill_formed : (Instr.scanLoadDmaDone (some [])).wellFormed = false := by decide

theorem test_33_images_ill_formed :
    (Instr.scanLoadDmaDone (some (List.replicate 33 0))).wellFormed = false := by decide

theorem test_offset_between_registers_ill_formed :
    (Instr.registerWrite 0x05 0).wellFormed = false := by decide

theorem test_named_opcode_ill_formed : (Instr.invalidOpcode 0 0x10).wellFormed = false := by decide

theorem test_boundaries_well_formed :
    (Instr.runDownEnd .ca 1).wellFormed = true ∧ (Instr.runDownEnd .ca 249999).wellFormed = true
      ∧ (Instr.invalidOpcode 0 0x1C).wellFormed = true
      ∧ (Instr.registerWrite 0x1C 0).wellFormed = true
      ∧ (Instr.scanLoadDmaDone none).wellFormed = true := by decide

/-! ### Small states -/

/-- An entry by its bytes; the bytes not listed are 0. -/
def entryOf (bytes : List Nat) : Entry := BitVec.ofNat 512 (packBytes (bytes.map byteOf))

/-- An SQ of 8 entries bound to CQ1, empty, with HEAD 2. -/
def ring : Sq :=
  { state := .active, base := 0, size := 8, head := 2, tail := 2, boundCq := 1, cls := 0,
    limit := 16, seq := 9 }

/-- READY with the administrative rings of 16 entries, and SQ1, SQ7, CQ1, CQ7 ACTIVE. -/
def ready : State :=
  { State.reset with
    device := .ready
    enable := true
    adminSq := { base := 1, entriesM1 := 15 }
    adminCq := { base := 2, entriesM1 := 15 }
    sqs := ((State.reset.sqs.put 0 (adminSqRing { base := 1, entriesM1 := 15 })).put 1 ring).put 7 ring
    cqs := ((State.reset.cqs.put 0 (adminCqRing { base := 2, entriesM1 := 15 })).put 1
      (newCq 0 8 true 1 0)).put 7 (newCq 0 8 true 1 0) }

/-- VOLT_SE on T3, G2, AP2, 4 samples (chapter 5, Example 1). -/
def volt : Request :=
  { opcode := 1, mode := 0, range := 2, aperture := 2, samples := 4, termA := 3, termB := 0,
    termC := 0, termD := 0, source := 0, level := 0, converter := 0, extraSettle := 0,
    noAutozero := false, raw := false }

/-- RES_4W, T8 and T9 drive, T10 and T11 sense, EX_ANY, I1, G1, AP1, 3 samples (chapter 8). -/
def ohms : Request :=
  { volt with
    mode := 3, range := 1, aperture := 1, samples := 3, termA := 8, termB := 9, termC := 10,
    termD := 11, level := 1 }

/-- REF on G0, AP2, one sample. -/
def refCheck : Request := { volt with mode := 5, range := 0, samples := 1 }

/-- A slot of SQ1 with TAG 7 and admission sequence number 8. -/
def slotOf (st : SlotState) (q : Request) : SlotRec :=
  { fetchingRec ready 1 with
    state := st, origin := .sq 1 0 (some { tag := 7, seq := 8 }), request := some q,
    needSet := some q.needs, currentRange := q.startRange }

/-- The only occupied slot of the state is slot `i`. -/
def withSlot (i : Fin 16) (r : SlotRec) (s : State) : State :=
  { s.setSlot i (some r) with age := [i] }

/-- CA in `st` serves slot 0, which holds `r`. -/
def served (st : ConvState) (r : SlotRec) : State :=
  { withSlot 0 { r with grant := some { conv := .ca, source := none } } ready with
    convClaims := { ca := .slot 0, cb := .free }
    convs :=
      { ca := { ConvRec.reset with state := st, serving := .slot 0, currentRange := r.currentRange }
        cb := ConvRec.reset } }

/-- SQ0 holds an entry at its HEAD 3, which the AX fetches. -/
def taking : State :=
  { ready.setSq 0 { ready.sqs.look 0 with head := 3, tail := 4 } with ax := .fetching 3 }

/-- The command in hand that keeps `w`. -/
def inHand (w : AxWork) : AxCtx := { position := 3, commandId := 5, cmd := .scanStop 1, work := w }

/-- The AX keeps `w` for the command in hand. -/
def executing (w : AxWork) : State := { ready with ax := .executing (inHand w) }

/-- Two templates: VOLT_SE without and with a limit block. -/
def bounded : Template :=
  { request := volt
    limits := some { low := 2000000, high := 3000000, hysteresis := 100000, changesOnly := true }
    limitState := .above }

def unbounded : Template := { request := volt, limits := none, limitState := .unknown }

/-- Scan 0 holds both templates and runs to CQ1, its pass 1 ended. -/
def scan0 : Scan :=
  { Scan.reset with
    state := .running, count := 2, period := 20, passLimit := 3, remaining := 2, target := some 1,
    countdown := 1, counting := true, passNumber := 1, nextTemplate := 2 }

def scanning : State := { ready.setScan 0 scan0 with templates := [bounded, unbounded] }

/-- A slot of scan 0, template 0. -/
def scanSlot (st : SlotState) : SlotRec := { slotOf st volt with origin := .scan 0 0 1 }

/-- The state after a command. -/
def after (c : Instr) (s : State) : State :=
  match exec c s with
  | .next t => t
  | .fault _ => s
  | .refused _ => s

/-- Slot `i` of a state holds `r` only if nothing else was there before. -/
theorem withSlot_only {i j : Fin 16} {r x : SlotRec} {s : State} (h0 : ∀ k, s.slots.look k = none)
    (h : (withSlot i r s).slots.look j = some x) : j = i ∧ x = r := by
  by_cases e : j = i
  · subst e
    simp [withSlot] at h
    exact ⟨rfl, h.symm⟩
  · simp [withSlot, e, h0] at h

theorem ready_free : ∀ k, ready.slots.look k = none := by decide

/-! ### The worked examples of spec/ -/

/-- The check value of this CRC-16 over the nine characters 1 to 9 (the polynomial and start value
of R117). -/
theorem test_crc_check_value :
    ([0x31, 0x32, 0x33, 0x34, 0x35, 0x36, 0x37, 0x38, 0x39] : List Byte).foldl crcByte 0xFFFF
      = 0x29B1 := by decide +kernel

/-- Chapter 6, a voltage result. -/
theorem test_voltage_result :
    correctionOutcome .voltSe false .ap2 .g2 4 15000 none
        { wordA := 1250, wordB := 1074790400, generation := 7, valid := true } Shadow.reset
        Shadow.reset
      = { status := .success, value := 3752411, generation := 7, aux := 0, sign := none } := by
  decide +kernel

/-- Chapter 6, a resistance result, and with entry 8 INVALID. -/
theorem test_resistance_result :
    (∀ valid, correctionOutcome .res4w false .ap1 .g1 4 64000 none
        { wordA := BitVec.ofInt 32 (-200), wordB := 1073741824, generation := 3, valid := true }
        Shadow.reset { wordA := 998750000, wordB := 0, generation := 2, valid := valid }
      = if valid then
          { status := .success, value := 400521, generation := 3, aux := 2, sign := none }
        else
          { status := .calInvalid, value := 16000, generation := 0, aux := 0, sign := none }) := by
  decide +kernel

/-- Chapter 6, a supply reading. -/
theorem test_supply_reading :
    (correctionOutcome .supply false .ap2 .g0 2 2500 none
        { wordA := 0, wordB := 1073741824, generation := 5, valid := true } Shadow.reset
        Shadow.reset).value = 5000000 := by decide +kernel

/-- R108's example, with the current entry written wrongly and at its nominal value. -/
theorem test_resistance_overflow :
    overflowTest (resistance 3000000 .g0 1000000) 3000000 4 6
        = { status := .overrange, value := 2147483647, generation := 4, aux := 6, sign := some .pos }
      ∧ resistance 3000000 .g0 10000000 = some 300000000 := by decide +kernel

/-- Halves round away from zero (scope file, Rounding). -/
theorem test_halves_round_away : roundDiv (-7) 2 = -4 ∧ roundDiv 7 2 = 4 := by decide

/-- Chapter 5: the bounds of the tolerance around 6,950,000 µV, and a reading outside. -/
theorem test_ref_tolerance :
    refInside 6946525 6950000 = true ∧ refInside 6953475 6950000 = true
      ∧ refInside 6954000 6950000 = false := by decide +kernel

/-- Chapter 4, the settling examples. -/
theorem test_settling_examples :
    volt.settleTime .g2 = 200 ∧ { volt with mode := 1, range := 4 }.settleTime .g3 = 700
      ∧ { ohms with level := 0 }.settleTime .g1 = 500
      ∧ { ohms with mode := 2, range := 0, level := 2, extraSettle := 2000 }.settleTime .g3 = 7700
      ∧ refCheck.settleTime .g0 = 200 := by decide

/-- Chapter 5, Example 2: 1, 9 and 84 counts of AP3 step one range narrower; 840 on G3 is final. -/
theorem test_autorange_example :
    autoDecision .ap3 .g0 0 false 1 = .narrower ∧ autoDecision .ap3 .g1 1 false 9 = .narrower
      ∧ autoDecision .ap3 .g2 2 false 84 = .narrower ∧ autoDecision .ap3 .g3 3 false 840 = .final := by
  decide

/-- Chapter 1: TERM_C 17, SAMPLES 0 and TERM_A = TERM_D carry detail 3; a meaningless field that the
mode does not use passes. -/
theorem test_validation_examples :
    failingCheck { ohms with termC := 17, samples := 0, termD := 8 } = some 3
      ∧ failingCheck { volt with termB := 40, source := 200 } = none
      ∧ failingCheck { ohms with termD := 8 } = some 9 := by decide

/-- Chapter 12: a MARK entry with HOLD and TAG 12, whatever its other bytes hold. -/
theorem test_mark_entry :
    let e := entryOf [0x02, 0x04, 0x0C, 0x00, 0xFF, 0xFF]
    entryOpcode e = opMark ∧ entryFlag e 2 = true ∧ entryTag e = 12
      ∧ failingCheck (entryRequest e) = none := by decide +kernel

/-- A MEASURE entry's fields at their bytes (chapter 12). -/
theorem test_measure_entry :
    entryRequest (entryOf [1, 3, 5, 0, 3, 1, 1, 3, 8, 9, 10, 11, 2, 1, 2, 0, 0xD0, 7])
      = { ohms with
          source := 2, converter := 2, extraSettle := 2000, noAutozero := true, raw := true } := by
  decide +kernel

/-- Chapter 12: the record of a SCAN_DONE of scan 2. -/
theorem test_scan_done_record :
    (scanDoneRecord { scan := 2, status := .completed, pass := 3, overruns := 9, remaining := 0 }
        true).bytes
      = [0, 0, 0, 0, 9, 0, 0, 0, 3, 0, 0, 0, 0, 0, 0, 0, 4, 2, 0, 0, 0, 0, 0, 0, 0, 0, 0, 0, 0, 0, 0,
          1] := by decide +kernel

/-- Chapter 7: the load of entries 9, 12 (inconsistent) and 15 (never programmed). -/
theorem test_load_examples :
    ((Cell.loaded { image := imageOf 99870000 0, counter := 4 } 9)
        = { wordA := 99870000, wordB := 0, generation := 4, valid := true })
      ∧ ((Cell.loaded { image := { imageOf 7 0 with wordA := 6 }, counter := 6 } 12).valid = false)
      ∧ ((Cell.loaded { image := imageOf 7 0, counter := 0 } 15).valid = false) := by
  decide +kernel

/-- Chapter 9: SIZE 8, HEAD 6, TAIL 2: the span is 6, 7, 0, 1, 2. -/
theorem test_release_span :
    (List.range 9).filter (inSpan { newCq 0 8 true 1 0 with head := 6, tail := 2 }) = [0, 1, 2, 6, 7] := by
  decide

/-- Chapter 2: behind a pointer at SQ5, scan3 comes before SQ2; behind scan3, SQ2 comes next. -/
theorem test_rotation_example :
    (sourcesAfter 4).find? (fun n => n == 1 || n == 10) = some 10
      ∧ (sourcesAfter 10).find? (fun n => n == 1 || n == 10) = some 1
      ∧ sourceAt 1 = .sq 2 ∧ sourceAt 10 = .scan 3 := by decide

/-- Chapter 8: 2,450,000 from UNKNOWN, 3,080,000 from INSIDE, 2,950,000 from ABOVE. -/
theorem test_limit_example :
    let l : LimitBlock :=
      { low := 2000000, high := 3000000, hysteresis := 100000, changesOnly := true }
    let r := fun v => { plainResult .success 0 .unknown with value := v }
    classify l .unknown (r 2450000) = .inside ∧ classify l .inside (r 3080000) = .above
      ∧ classify l .above (r 2950000) = .above ∧ classify l .above (r 2900000) = .inside := by decide

/-- Chapter 3: a terminal sensed by both converters is open to no DRIVE claim and to no third
SENSE claim. -/
theorem test_terminal_example :
    let t : TermClaim := .sense [(0, .ca), (1, .cb)]
    termFits (.sense [(0, .ca)]) .sense .cb = true ∧ termFits t .drive .ca = false
      ∧ termFits t .sense .cb = false := by decide

/-! ### Single steps -/

/-- Chapter 12: 0x0005_0009 to SUBMIT is refused with BAD_SUBMIT of object 15 and value 5. -/
theorem test_bad_submit :
    ((after (.registerWrite 0x14 0x00050009) ready).cqs.look 0).list
      = [.event { kind := .badSubmit, object := 15, mergeCount := 1, value := 5 }] := by
  decide +kernel

/-- Chapter 12: 0x0002_0001 to RELEASE names CQ1 with head 2. -/
theorem test_release_step :
    let s := ready.setCq 1 { newCq 0 8 true 1 0 with tail := 3 }
    ((after (.registerWrite 0x18 0x00020001) s).cqs.look 1).head = 2 := by decide +kernel

/-- SUBMIT moves the tail, and within the event the arbiter fills slot 0 from position 2 (R28). -/
theorem test_submit_fills :
    let t := after (.submit 1 3) ready
    (t.sqs.look 1).tail = 3 ∧ (t.slots.look 0).map SlotRec.state = some .fetching ∧ t.age = [0]
      ∧ t.rotation.look 0 = 0 := by decide +kernel

/-- The examination grants the whole need set (R52). -/
theorem test_examination_grants :
    let t := after .examination { withSlot 0 (slotOf .waiting ohms) ready with examDue := true }
    t.convClaims.ca = .slot 0 ∧ t.sourceClaims.ex0 = some 0 ∧ t.sources.ex0 = .on .i1 0
      ∧ t.termClaims.look 8 = .drive 0 ∧ t.termClaims.look 11 = .sense [(0, .ca)]
      ∧ t.conns.ca = { plus := .terminal 10, minus := .terminal 11, driveHigh := some 8,
                       driveLow := some 9 } := by decide +kernel

/-- Chapter 5, Example 1: the crossing at 3,750 counts of the last sample releases CA. -/
theorem test_last_sample :
    let t := after (.runDownEnd .ca 3750)
      (served .runDown { slotOf .converting volt with samplesDone := 3, sum := 11250 })
    (t.slots.look 0).map (fun r => (r.state, r.samplesDone, r.sum))
        = some (.correcting, 4, 15000)
      ∧ t.convs.ca.state = .idle ∧ t.convs.ca.currentRange = .g2 ∧ t.convClaims.ca = .free := by
  decide +kernel

/-- R24, R28: a slot filled within the event joins age order behind the slot that stands. -/
theorem test_fill_joins_the_end :
    (after .slotFill (withSlot 5 (slotOf .waiting ohms) (ready.setSq 1 { ring with tail := 6 }))).age
      = [5, 0] := by decide +kernel

/-- R80: an integrator already at zero ends its run-down at once, here with the last sample. -/
theorem test_zero_integrator :
    let t := after (.runUpEnd .ca { positive := true, zero := true })
      (served .runUp { slotOf .converting volt with samplesDone := 3, sum := 11250 })
    (t.slots.look 0).map (fun r => (r.state, r.samplesDone, r.sum)) = some (.correcting, 4, 11250)
      ∧ t.convs.ca.state = .idle ∧ t.convClaims.ca = .free := by decide +kernel

/-- Chapter 5, Example 3: an overranged sample ends the request with the sign of POLARITY. -/
theorem test_open_lead :
    let t := after (.runDownOverrange .ca)
      (served .runDown (slotOf .converting { volt with range := 1, aperture := 1 }))
    (t.slots.look 0).map (fun r => (r.samplesDone, r.sum, r.result.map Result.value))
      = some (1, 50000, some 12500000) := by decide +kernel

/-- Chapter 5: an ABORT in RUN_UP leaves CA in RECOVERY on G2, its claim held, T3 released. -/
theorem test_abort_recovers :
    let s := served .runUp { slotOf .converting volt with samplesDone := 2, sum := 7500 }
    let t := after (.abort 1 1 0 7)
      { s with sqs := taking.sqs, ax := taking.ax, termClaims := s.termClaims.put 3 (.sense [(0, .ca)]) }
    t.convClaims.ca = .recovery ∧ t.convs.ca.state = .recovery ∧ t.convs.ca.currentRange = .g2
      ∧ t.termClaims.look 3 = .free
      ∧ (t.slots.look 0).map (fun r => (r.state, r.samplesDone, r.sum)) = some (.posting, 2, 0) := by
  decide +kernel

/-- A record of a slot of SQ1 carries the SQ's HEAD, and its write frees the slot (R169, R170). -/
theorem test_record_write :
    let s := after (.correctionEnd 0)
      (withSlot 0 { slotOf .correcting volt with result := some markResult } ready)
    (s.cqs.look 1).writing.map (fun r => (r.sqHead, r.id, r.phase)) = some (2, 7, true)
      ∧ (after (.recordWriteDone 1) s).slots.look 0 = none
      ∧ (after (.recordWriteDone 1) s).intPending = 2 := by decide +kernel

/-- The counter steps before anything is programmed (R127). -/
theorem test_cal_write_commits :
    let t := after (.calWrite 1 9 0 0 99870000 0 true) taking
    (t.cells.look 9).counter = 1 ∧ (t.shadows.look 9).valid = false
      ∧ t.writeCtx.map (fun w => (w.budget, w.pulses, w.phase)) = some (4, 0, .charge) := by
  decide +kernel

/-- A verify that matches ends the write in success (R130). -/
theorem test_verify_matches :
    let w : WriteCtx :=
      { entry := 9, image := imageOf 99870000 0, budget := 4, pulses := 2, phase := .verify }
    let t := after (.verifyEnd true) { executing .calWriting with
      writeCtx := some w, cells := ready.cells.put 9 { image := w.image, counter := 5 } }
    t.shadows.look 9 = { wordA := 99870000, wordB := 0, generation := 5, valid := true }
      ∧ (t.cqs.look 0).list = [.admin (plainDone 5 .success 2 5)] := by decide +kernel

/-- The tick that brings the countdown to 0 starts pass 2 (chapter 8), and its first template is
admitted within the event. -/
theorem test_tick_starts_a_pass :
    let t := after .timebaseTick scanning
    (t.scans.look 0).passNumber = 2 ∧ (t.scans.look 0).remaining = 1
      ∧ (t.scans.look 0).outstanding = 1 ∧ (t.scans.look 0).countdown = 20 := by decide +kernel

/-- A template that fails a check ends the SCAN_LOAD with its index and check (R140). -/
theorem test_scan_load_refuses :
    ((after (.scanLoadDmaDone (some [entryOf [1, 0, 0, 0, 0, 0, 0, 1], entryOf [2]]))
        (executing (.scanLoadDma 0 2 0))).cqs.look 0).list
      = [.admin (plainDone 5 .invalidField 1 1)] := by decide +kernel

/-- A write error on CQ1 takes its scan's target away (R153, R171). -/
theorem test_write_error_loses_target :
    let d : Cq :=
      { scanning.cqs.look 1 with
        list := [.event { kind := .badSubmit, object := 1, mergeCount := 1, value := 0 }]
        writing := some (Record.zero true) }
    let t := after (.cqWriteBusError 1) (scanning.setCq 1 d)
    (t.cqs.look 1).state = .faulted ∧ (t.scans.look 0).state = .loaded
      ∧ (t.cqs.look 0).list
        = [.event { kind := .cqWriteError, object := 1, mergeCount := 1, value := 0 },
           .event { kind := .scanTargetLost, object := 0, mergeCount := 1, value := 1 }] := by
  decide +kernel

/-- ENABLE_ON with an ENTRIES_M1 of 0 enters FAULT with BAD_ADMIN_CONFIG (R196). -/
theorem test_bad_admin_config :
    let t := after (.enableOn true) State.reset
    readWindow t 0x08 = some 0x104 ∧ readWindow t 0x04 = some 3 ∧ t.convs.ca.state = .recovery := by
  decide +kernel

/-! ### The hypotheses of the statements are met

One theorem for each statement with hypotheses, named after it: a concrete state and operands that
meet them, for each of its clauses, at the boundary of a range where the clause has one. -/

theorem ready_atWork {s : State} (h : s.heldInReset = false) (d : s.device = .ready) : s.atWork :=
  ⟨h, .inl d⟩

/-- The laws of a device that stands reset in device state `d`. -/
theorem rest_deviceLaw (d : Device) (loading : Bool) (h : loading = true → d = .starting)
    (sq cq : AdminReg) (ie en : Bool) :
    DeviceLaw { State.reset with
      device := d, loading := loading, adminSq := sq, adminCq := cq, intEnable := ie,
      enable := en } := by
  refine ⟨fun _ => ⟨?_, ?_, ?_, ?_, rfl, rfl⟩, fun hd => ⟨?_, rfl⟩, fun _ => rfl, ?_⟩
  · exact (by decide : ∀ i, State.reset.slots.look i = none)
  · exact (by decide : ∀ q, State.reset.sqs.look q = Sq.gone)
  · exact (by decide : ∀ c, State.reset.cqs.look c = Cq.gone)
  · exact (by decide : ∀ k, (State.reset.scans.look k).state = .empty
      ∨ (State.reset.scans.look k).state = .loaded)
  · cases loading
    · rfl
    · exact absurd (h rfl) hd
  · intro c hc
    cases c <;> cases hc

theorem test_StepTakesTheFront_premises :
    { State.reset with pending := [.slotFill, .examination] }.pending = .slotFill :: [.examination]
      ∧ State.reset.pending = [] := ⟨rfl, rfl⟩

theorem test_RegisterWindow_premises :
    (4 : Word).getLsbD 2 = true ∧ ((3 : Word).getLsbD 2 = false ∧ (3 : Word).getLsbD 0 = true)
      ∧ ((2 : Word).getLsbD 2 = false ∧ (2 : Word).getLsbD 0 = false) ∧ ready.device ≠ .off
      ∧ State.reset.device.works = false ∧ (0x05 : BitVec 5).toNat % 4 ≠ 0
      ∧ ready.heldInReset = false ∧ (powerOnState true ready).heldInReset = true := by decide

/-- RST_N low takes no read; its release lets IDENT read (R202). -/
theorem test_read_in_reset :
    readWindow (powerOnState true ready) 0x00 = none
      ∧ readWindow (powerOnState false ready) 0x00 = some 0x3B114210 := by decide +kernel

theorem test_WritesAtRest_premises :
    let off := { State.reset with intEnable := true }
    let fault := { State.reset with device := .fault }
    (off.heldInReset = false ∧ DeviceLaw off ∧ off.device = .off)
      ∧ (fault.heldInReset = false ∧ DeviceLaw fault ∧ fault.device = .fault) :=
  ⟨⟨rfl, rest_deviceLaw .off false nofun _ _ true false, rfl⟩,
    rfl, rest_deviceLaw .fault false nofun _ _ false false, rfl⟩

theorem test_InterruptBits_premises :
    let s := ready.setCq 1 { newCq 0 8 true 2 1 with unsignalled := 1, timer := some 1 }
    s.atWork ∧ (1 : Word).getLsbD 2 = false ∧ (1 : Word).getLsbD 0 = s.enable
      ∧ (s.cqs.look 1).timer.isSome = true :=
  ⟨ready_atWork rfl rfl, by decide, by decide, by decide⟩

/-- A slot that holds a halt back keeps a HALTING device at work. -/
theorem test_halting_at_work :
    { withSlot 0 (slotOf .converting volt) ready with device := .halting }.atWork :=
  ⟨rfl, .inr ⟨rfl, 0, slotOf .converting volt, by decide, by decide, by decide⟩⟩

theorem test_ResetsLeave_premises :
    let w : WriteCtx := { entry := 3, image := imageOf 0 0, budget := 4, pulses := 0, phase := .pulse }
    let s := { executing .calWriting with writeCtx := some w }
    s.heldInReset = false ∧ { State.reset with heldInReset := true }.heldInReset = true
      ∧ Instr.slotFill ≠ .powerOnReset ∧ Instr.slotFill ≠ .rstNHeldLow
      ∧ ∀ v, s.writeCtx = some v → v.phase = .pulse → v.entry ≠ 4 :=
  ⟨rfl, rfl, by decide, by decide, fun v h _ => by cases h; decide⟩

theorem test_EnableStartsUp_premises :
    let s := { State.reset with
      adminSq := { base := 1, entriesM1 := 1 }, adminCq := { base := 2, entriesM1 := 1 } }
    let z := { State.reset with adminSq := { base := 1, entriesM1 := 1 } }
    (s.heldInReset = false ∧ s.device = .off ∧ s.enable = false ∧ DeviceLaw s
        ∧ s.adminSq.entriesM1 ≠ 0 ∧ s.adminCq.entriesM1 ≠ 0)
      ∧ (z.heldInReset = false ∧ z.device = .off ∧ z.enable = false ∧ DeviceLaw z
        ∧ z.adminCq.entriesM1 = 0) :=
  ⟨⟨rfl, rfl, rfl, rest_deviceLaw .off false nofun _ _ false false, by decide, by decide⟩,
    rfl, rfl, rfl, rest_deviceLaw .off false nofun _ _ false false, by decide⟩

/-- A READY device with a slot in each state that halting meets, and a running scan. -/
def busy : State :=
  { ((((scanning.setSlot 0 (some { slotOf .converting volt with
        grant := some { conv := .ca, source := none } })).setSlot 1
      (some { slotOf .correcting volt with result := some markResult })).setSlot 2
      (some (fetchingRec ready 1))).setSlot 3
      (some { slotOf .settling volt with grant := some { conv := .cb, source := none } })).setSlot 4
      (some (slotOf .waiting volt)) with
    age := [0, 1, 2, 3, 4] }

theorem busy_ageLaw : AgeLaw busy := ⟨by decide, by decide⟩

theorem test_EnableOffBeginsHalting_premises :
    busy.heldInReset = false ∧ busy.device = .ready ∧ busy.enable = true ∧ AgeLaw busy
      ∧ (busy.slots.look 0).map SlotRec.state = some .converting
      ∧ (busy.slots.look 1).map SlotRec.state = some .correcting
      ∧ (busy.slots.look 2).map SlotRec.state = some .fetching
      ∧ (busy.slots.look 3).map (fun r => (r.state, r.grant.isSome)) = some (.settling, true)
      ∧ (busy.scans.look 0).state = .running :=
  ⟨rfl, rfl, rfl, busy_ageLaw, by decide, by decide, by decide, by decide, by decide⟩

/-- Halting stays begun in `busy`, beside a FENCED MARK and an ORPHANED slot, which no list receives. -/
theorem test_EnableOffBeginsHalting_outcome_premises :
    let s := (busy.setSlot 5 (some (slotOf .fenced volt))).setSlot 6
      (some { scanSlot .waiting with orphaned := true })
    (after (.enableOff true) s).device = .halting ∧ s.receives (slotOf .waiting volt)
      ∧ ¬ s.receives { scanSlot .waiting with orphaned := true }
      ∧ (slotOf .fenced volt).origin = .sq 1 0 (some { tag := 7, seq := 8 }) :=
  ⟨by decide +kernel, ⟨by decide, rfl⟩, nofun, rfl⟩

/-- A WAITING slot is posted ABORTED with detail 3 at entry to HALTING (R39, R40). -/
theorem test_halt_aborts :
    ((after (.enableOff true) busy).slots.look 4).map
        (fun r => (r.state, r.result.map fun x => (x.status, x.aux)))
      = some (.posting, some (.aborted, 3)) := by decide +kernel

theorem test_StartUpChecks_premises :
    let s := { State.reset with device := .starting, loading := true }
    let u := { State.reset with
      device := .starting, checks := { ca := .due, cb := .due },
      convs := { ca := ConvRec.reset, cb := { ConvRec.reset with state := .recovery } } }
    (s.heldInReset = false ∧ s.device = .starting ∧ DeviceLaw s ∧ s.loading = true
        ∧ (s.convs.look .ca).state = .idle)
      ∧ u.heldInReset = false ∧ u.device = .starting ∧ DeviceLaw u ∧ u.checks.look .ca = .due
        ∧ (u.convs.look .ca).state = .idle ∧ (u.convs.look .cb).state ≠ .idle := by
  refine ⟨⟨rfl, rfl, rest_deviceLaw .starting true (fun _ => rfl) _ _ false false, rfl, rfl⟩,
    rfl, rfl, ⟨fun _ => (rest_deviceLaw .starting false nofun
      { base := 0, entriesM1 := 0 } { base := 0, entriesM1 := 0 } false false).1 rfl,
      fun h => absurd rfl h, nofun, ?_⟩, rfl, rfl, by decide⟩
  intro c hc
  cases c <;> cases hc

theorem test_StartUpEndEntersReady_premises :
    let s := fun en => { State.reset with
      device := .starting, enable := en, checks := { ca := .ended, cb := .ended } }
    ∀ en, (s en).heldInReset = false ∧ (s en).device = .starting ∧ DeviceLaw (s en)
      ∧ (s en).checks = { ca := .ended, cb := .ended } ∧ (s en).enable = en := by
  intro s en
  refine ⟨rfl, rfl, ⟨fun _ => (rest_deviceLaw .starting false nofun
    { base := 0, entriesM1 := 0 } { base := 0, entriesM1 := 0 } false false).1 rfl,
    fun h => absurd rfl h, nofun, ?_⟩, rfl, rfl⟩
  intro c hc
  cases c <;> cases hc

theorem test_DiscardStepEndsHalting_premises :
    let s := fun en => { withSlot 0 (slotOf .posting volt) scanning with
      device := .halting, enable := en }
    ∀ en, (s en).heldInReset = false ∧ (s en).device = .halting ∧ (s en).ax.atRest = true
      ∧ (∀ i r, (s en).slots.look i = some r → r.state = .posting) ∧ (s en).enable = en
      ∧ (s en).adminSq.entriesM1 ≠ 0 ∧ (s en).adminCq.entriesM1 ≠ 0
      ∧ ((s en).scans.look 0).state = .running := by
  intro s en
  refine ⟨rfl, rfl, rfl, ?_, rfl, by decide +revert, by decide +revert, by decide +revert⟩
  intro i r h
  rw [(withSlot_only (s := scanning) (by decide) h).2]
  rfl

theorem test_AdminBusErrorsEnterFault_premises :
    (taking.heldInReset = false ∧ ∃ index, taking.ax = .fetching index)
      ∧ ((ready.setCq 0 { ready.cqs.look 0 with writing := some (Record.zero true) }).cqs.look
          0).writing.isSome = true := ⟨⟨rfl, 3, rfl⟩, by decide⟩

theorem test_SubmitTakenOrRefused_premises :
    ready.atWork ∧ (ready.cqs.look 0).state = .active
      ∧ ((7 : BitVec 4).toNat ≤ 7 ∧ (ready.sqs.look (eighth 7)).state = .active
        ∧ (7 : Byte).toNat < (ready.sqs.look (eighth 7)).size)
      ∧ (ready.sqs.look (eighth 7)).size ≤ (8 : Byte).toNat
      ∧ (ready.sqs.look (eighth 2)).state ≠ .active ∧ 7 < (8 : BitVec 4).toNat :=
  ⟨ready_atWork rfl rfl, by decide, by decide, by decide, by decide, by decide⟩

theorem ready_ringLaw : RingLaw ready := by
  constructor
  · intro q
    revert q
    unfold Sq.lawful
    decide
  · intro c
    revert c
    unfold Cq.lawful
    decide

/-- The span of an empty ring is its HEAD alone; a head outside it, and an id above 7. -/
theorem test_ReleaseTakenOrRefused_premises :
    ready.atWork ∧ (ready.cqs.look 0).state = .active ∧ RingLaw ready
      ∧ ((7 : BitVec 4).toNat ≤ 7 ∧ (ready.cqs.look (eighth 7)).state = .active
        ∧ ∃ n, n ≤ ((ready.cqs.look (eighth 7)).tail + (ready.cqs.look (eighth 7)).size
            - (ready.cqs.look (eighth 7)).head) % (ready.cqs.look (eighth 7)).size
          ∧ (0 : Byte).toNat
            = ((ready.cqs.look (eighth 7)).head + n) % (ready.cqs.look (eighth 7)).size)
      ∧ (∀ n, n ≤ ((ready.cqs.look (eighth 7)).tail + (ready.cqs.look (eighth 7)).size
            - (ready.cqs.look (eighth 7)).head) % (ready.cqs.look (eighth 7)).size →
          (1 : Byte).toNat
            ≠ ((ready.cqs.look (eighth 7)).head + n) % (ready.cqs.look (eighth 7)).size)
      ∧ (ready.cqs.look (eighth 2)).state ≠ .active ∧ 7 < (8 : BitVec 4).toNat := by
  refine ⟨ready_atWork rfl rfl, by decide, ready_ringLaw, ⟨by decide, by decide, 0, by decide,
    by decide⟩, ?_, by decide, by decide⟩
  intro n hn
  have : n = 0 := by
    have h : ((ready.cqs.look (eighth 7)).tail + (ready.cqs.look (eighth 7)).size
      - (ready.cqs.look (eighth 7)).head) % (ready.cqs.look (eighth 7)).size = 0 := by decide
    omega
  subst this
  decide

theorem test_EventJoinsOrMerges_premises :
    let d : Cq := { newCq 0 8 true 1 0 with
      list := [.event { kind := .badSubmit, object := 1, mergeCount := 255, value := 0 }] }
    (EventKind.badSubmit, 2) ∉ d.waiting.filterMap Member.eventKey
      ∧ (EventKind.badSubmit, 1) ∈ d.waiting.filterMap Member.eventKey
      ∧ (d.waiting.filterMap Member.eventKey).Nodup := by decide

/-- SQ1 with entries, eligible. -/
def queued : State := ready.setSq 1 { ring with tail := 6 }

theorem test_ArbiterPicksByClassAndRotation_premises :
    pickSource ready = none ∧ (∀ n, eligible ready n = false) ∧ pickSource queued = some (0, 0)
      ∧ eligible queued 0 = true ∧ lowestFree queued ≠ none := by decide +kernel

theorem test_SlotFillAdmits_premises :
    (queued.heldInReset = false ∧ queued.device = .ready ∧ lowestFree queued = some 0
        ∧ pickSource queued = some (0, 0) ∧ sourceAt 0 = .sq 1)
      ∧ (let s := scanning.setScan 0 { scan0 with nextTemplate := 1, limit := 1 }
        lowestFree s = some 0 ∧ pickSource s = some (0, 7) ∧ sourceAt 7 = .scan 0
          ∧ (s.scans.look 0).target = some 1 ∧ s.templates[0 + 1]? = some unbounded) := by
  decide +kernel

/-- Slot 0 reads position 2 of SQ1. -/
def reading (abort : Option AbortDetail) : State :=
  withSlot 0 { fetchingRec queued 1 with pendingAbort := abort } queued

/-- The entry of `volt`. -/
def voltEntry : Entry := entryOf [1, 0, 0, 0, 0, 2, 2, 4, 3]

theorem test_FetchedMeasureEntersTheTable_premises :
    (∀ abort, (reading abort).heldInReset = false ∧ (reading abort).device = .ready
        ∧ (reading abort).slots.look 0 = some { fetchingRec queued 1 with pendingAbort := abort })
      ∧ (fetchingRec queued 1).state = .fetching ∧ (fetchingRec queued 1).origin = .sq 1 2 none
      ∧ (fetchingRec queued 1).orphaned = false ∧ (queued.sqs.look 1).tail ≠ 2
      ∧ (queued.sqs.look 1).state ≠ .deleting ∧ entryOpcode voltEntry ≠ opMark
      ∧ failingCheck (entryRequest voltEntry) = none
      ∧ failingCheck (entryRequest (entryOf [1, 0, 0, 0, 0, 2, 2, 17, 3])) = some 6
      ∧ (queued.cqs.look (fetchingRec queued 1).targetCq).state = .active := by
  refine ⟨fun abort => ⟨rfl, rfl, rfl⟩, ?_⟩
  decide +kernel

theorem test_WithdrawnAndFailedFetches_premises :
    let s := (reading none).setSq 1 ring
    (s.heldInReset = false ∧ s.device = .ready ∧ s.slots.look 0 = some (fetchingRec queued 1)
        ∧ (s.cqs.look 0).state = .active ∧ (s.sqs.look 1).tail = 2)
      ∧ ((reading none).sqs.look 1).state = .active := by
  refine ⟨⟨rfl, rfl, rfl, ?_⟩, ?_⟩ <;> decide

/-- The read of a FAULTED SQ, and of a DELETING one that holds another slot. -/
theorem test_WithdrawnAndFailedFetches_states_premises :
    let s := fun st => ((reading (some .halt)).setSq 1 { ring with state := st }).setSlot 1
      (some (slotOf .correcting volt))
    (∀ st, ((s st).sqs.look 1).state = st ∧ (s st).device = .ready
        ∧ (s st).slots.look 0 = some { fetchingRec queued 1 with pendingAbort := some .halt })
      ∧ ((1 : Fin 16) ≠ 0 ∧ (s .deleting).slots.look 1 = some (slotOf .correcting volt)
        ∧ (slotOf .correcting volt).fromSq 1 = true) :=
  ⟨fun _ => ⟨rfl, rfl, rfl⟩, by decide, rfl, rfl⟩

/-- A FENCED MARK of SQ1, and the slot of `fetchingRec`, with and without a pending abort, behind a WAITING
one. -/
theorem test_MarkIsFenced_premises :
    let s := (reading none).setSlot 1 (some (slotOf .waiting volt))
    let m := { slotOf .fenced volt with request := some (entryRequest (entryOf [2])) }
    (s.slots.look 0 = some (fetchingRec queued 1) ∧ (s.sqs.look 1).tail ≠ 2
        ∧ (reading (some .queueDeleted)).slots.look 0
          = some { fetchingRec queued 1 with pendingAbort := some .queueDeleted }
        ∧ entryOpcode (entryOf [2]) = opMark ∧ s.slots.look 1 = some (slotOf .waiting volt)
        ∧ (slotOf .waiting volt).earlierThan 1 (s.sqs.look 1).seq = true)
      ∧ ((withSlot 0 m ready).slots.look 0 = some m ∧ m.state = .fenced
        ∧ (∀ j x, (withSlot 0 m ready).slots.look j = some x → x.earlierThan 1 8 = false)
        ∧ (ready.cqs.look m.targetCq).state = .active) := by
  refine ⟨⟨rfl, by decide, rfl, by decide +kernel, rfl, by decide⟩, rfl, rfl, ?_, by decide⟩
  intro j x h
  rw [(withSlot_only ready_free h).2]
  decide

theorem test_ValidationOrder_premises :
    { volt with opcode := 2 }.opcode = 2 ∧ { volt with opcode := 3 }.opcode ≠ 1
      ∧ { volt with opcode := 3 }.opcode ≠ 2 ∧ volt.opcode = 1 ∧ bounded.request = volt := by decide

/-- A RES_4W request waits alone, and an examination is due. -/
def due : State := { withSlot 0 (slotOf .waiting ohms) ready with examDue := true }

theorem test_ExaminationGrantsWholeNeedSet_premises :
    due.atWork ∧ due.examDue = true
      ∧ firstGrant due = some (0, { conv := .ca, source := some .ex0 })
      ∧ due.slots.look 0 = some (slotOf .waiting ohms) ∧ (slotOf .waiting ohms).request = some ohms
      ∧ (slotOf .waiting ohms).needSet = some ohms.needs ∧ ohms.needs.distinct
      ∧ ((8 : Fin 16), ClaimKind.drive) ∈ ohms.needs.terms
      ∧ ((10 : Fin 16), ClaimKind.sense) ∈ ohms.needs.terms := by
  refine ⟨ready_atWork rfl rfl, rfl, by decide +kernel, rfl, rfl, rfl, ?_, by decide, by decide⟩
  unfold NeedSet.distinct
  decide

theorem due_waitingLaw : WaitingLaw due := by
  intro i r h _
  have := (withSlot_only (i := 0) (r := slotOf .waiting ohms) ready_free h).2
  subst this
  exact ⟨ohms, rfl, rfl⟩

theorem test_ExaminationEndsWithoutAGrant_premises : due.examDue = true ∧ WaitingLaw due :=
  ⟨rfl, due_waitingLaw⟩

/-- Two slots wait, the younger in the lower class. -/
theorem test_ExaminationEndsWithoutAGrant_order_premises :
    let s := { (due.setSlot 0 (some { slotOf .waiting ohms with cls := 1 })).setSlot 1
      (some (slotOf .waiting volt)) with age := [0, 1] }
    s.age.Nodup ∧ (0 : Fin 16) ∈ examOrder s ∧ (1 : Fin 16) ∈ examOrder s ∧ examOrder s = [1, 0]
      ∧ s.slots.look 0 = some { slotOf .waiting ohms with cls := 1 }
      ∧ s.slots.look 1 = some (slotOf .waiting volt) :=
  ⟨by decide, by decide +kernel, by decide +kernel, by decide +kernel, rfl, rfl⟩

theorem test_GrantAdvancesBypass_premises :
    let x := fun n => { slotOf .waiting volt with bypass := n }
    let s := (((due.setSlot 1 (some (x 6))).setSlot 2 (some (x 7))).setSlot 3 (some (x 8))).setSlot 4
      (some (slotOf .settling volt))
    s.slots.look 0 = some (slotOf .waiting ohms) ∧ (slotOf .waiting ohms).request = some ohms
      ∧ s.slots.look 1 = some (x 6) ∧ s.slots.look 2 = some (x 7) ∧ s.slots.look 3 = some (x 8)
      ∧ s.slots.look 4 = some (slotOf .settling volt) ∧ (slotOf .settling volt).state ≠ .waiting :=
  ⟨rfl, rfl, rfl, rfl, rfl, rfl, by decide⟩

theorem test_ConverterAndSourceChoice_premises :
    let s := { ready with sourceClaims := { ex0 := some 5, ex1 := none } }
    let only := { ohms with source := 2 }.needs
    grantFor due 0 = some { conv := .ca, source := some .ex0 }
      ∧ (only.source = .only .ex1 ∧ SourceId.ex1 ∈ grantableSources ready [] only)
      ∧ SourceId.ex0 ∈ grantableSources ready [] ohms.needs
      ∧ (SourceId.ex0 ∉ grantableSources s [] ohms.needs
        ∧ SourceId.ex1 ∈ grantableSources s [] ohms.needs)
      ∧ volt.needs.source = .noSource := by decide +kernel

/-- Both converters can be granted, with CB alone on the starting range and not; a BLOCKING slot reserves
them, and then neither can. -/
theorem test_ConverterAndSourceChoice_candidates_premises :
    let cb := due.setConv .cb { ConvRec.reset with currentRange := .g1 }
    let b := { (due.setSlot 1 (some { slotOf .waiting volt with blocking := true, bypass := 8 })) with
      age := [0, 1] }
    (∀ c, canMeet due (reservedAgainst due 0) ohms.needs c = true)
      ∧ (∀ c, canMeet cb (reservedAgainst cb 0) ohms.needs c = true)
      ∧ ((cb.convs.look .cb).currentRange = ohms.startRange
        ∧ (cb.convs.look .ca).currentRange ≠ ohms.startRange)
      ∧ (∀ c, canMeet b (reservedAgainst b 0) ohms.needs c = false)
      ∧ ohms.mode.toNat = 3 ∧ volt.mode.toNat = 0 ∧ refCheck.mode.toNat = 5 := by
  refine ⟨?_, ?_, ⟨by decide, by decide⟩, ?_, by decide, by decide, by decide⟩
  all_goals
    intro c
    cases c <;> decide +kernel

theorem test_SettlingEndBeginsConversion_premises :
    let s := served .settling (slotOf .settling volt)
    let u := { State.reset with
      device := .starting, checks := { ca := .running, cb := .running },
      convs :=
        { ca := { ConvRec.reset with state := .settling, serving := .startUp }, cb := ConvRec.reset } }
    (s.atWork ∧ (s.convs.look .ca).state = .settling ∧ (s.convs.look .ca).serving = .slot 0
        ∧ (s.slots.look 0).map SlotRec.request = some (some volt))
      ∧ (u.device = .starting ∧ DeviceLaw u ∧ (u.convs.look .ca).state = .settling
        ∧ (u.convs.look .ca).serving = .startUp) := by
  refine ⟨⟨ready_atWork rfl rfl, rfl, rfl, rfl⟩, rfl, ⟨fun _ => (rest_deviceLaw .starting false nofun
    { base := 0, entriesM1 := 0 } { base := 0, entriesM1 := 0 } false false).1 rfl,
    fun h => absurd rfl h, nofun, ?_⟩, rfl, rfl⟩
  intro c _
  cases c <;> rfl

theorem test_PhasesOfAConversion_premises :
    ∀ st, (served st (slotOf .converting volt)).atWork
      ∧ ((served st (slotOf .converting volt)).convs.look .ca).state = st
      ∧ ((served st (slotOf .converting volt)).convs.look .ca).serving = .slot 0
      ∧ ((served st (slotOf .converting volt)).slots.look 0).map SlotRec.request = some (some volt) :=
  fun _ => ⟨ready_atWork rfl rfl, rfl, rfl, rfl⟩

/-- CA in STARTING, in state `st` of its check or in RECOVERY before it; the check of CB is in `d`. -/
def checking (st : ConvState) (mine d : Check) : State :=
  { State.reset with
    device := .starting
    checks := { ca := mine, cb := d }
    convs :=
      { ca := { ConvRec.reset with
          state := st, serving := if st = .recovery then .nothing else .startUp }
        cb := ConvRec.reset } }

theorem checking_deviceLaw (st : ConvState) (mine d : Check) (h : st = .recovery ∨ mine = .running) :
    DeviceLaw (checking st mine d) := by
  refine ⟨fun _ => (rest_deviceLaw .starting false nofun
    { base := 0, entriesM1 := 0 } { base := 0, entriesM1 := 0 } false false).1 rfl,
    fun h => absurd rfl h, nofun, ?_⟩
  intro c hc
  cases c
  · rcases h with h | h
    · subst h
      cases hc
    · exact h
  · cases hc

/-- Each phase of a start-up check, 12,499 counts and the overrange at 12,500, with the other check ended
and not; a recovery in OFF, FAULT and STARTING, with its check due and not due. -/
theorem test_PhasesOfAConversion_start_premises :
    (∀ st d, st ≠ .recovery → (checking st .running d).heldInReset = false
        ∧ (checking st .running d).device = .starting ∧ DeviceLaw (checking st .running d)
        ∧ ((checking st .running d).convs.look .ca).state = st
        ∧ ((checking st .running d).convs.look .ca).serving = .startUp
        ∧ (checking st .running d).checks.look .cb = d)
      ∧ (12499 < 12500 ∧ Conv.cb ≠ Conv.ca)
      ∧ (∀ mine, DeviceLaw (checking .recovery mine .notDue)
        ∧ ((checking .recovery mine .notDue).convs.look .ca).state = .recovery
        ∧ (checking .recovery mine .notDue).checks.look .ca = mine)
      ∧ ∀ dev : Device, (dev = .off ∨ dev = .fault) →
        DeviceLaw { checking .recovery .notDue .notDue with device := dev } := by
  refine ⟨fun st d h => ⟨rfl, rfl, checking_deviceLaw st .running d (.inr rfl), rfl, ?_, rfl⟩,
    ⟨by decide, by decide⟩, fun mine => ⟨checking_deviceLaw .recovery mine .notDue (.inl rfl), rfl, rfl⟩,
    fun dev h => ⟨fun _ => (rest_deviceLaw .off false nofun
      { base := 0, entriesM1 := 0 } { base := 0, entriesM1 := 0 } false false).1 rfl,
      fun _ => ⟨rfl, rfl⟩, nofun, ?_⟩⟩
  · exact if_neg h
  · intro c hc
    cases c <;> cases hc

/-- A start-up check's run-down with no entry VALID leaves DEGRADED, overrange sets it (R99). -/
theorem test_start_up_check_ends :
    (after (.runDownEnd .ca 6953) (checking .runDown .running .notDue)).convs.ca.degraded = false
      ∧ (after (.runDownOverrange .ca) (checking .runDown .running .notDue)).convs.ca.degraded = true
      ∧ (after (.runDownEnd .ca 0) (checking .runDown .running .notDue)).checks.ca = .ended := by
  decide +kernel

/-- CA in RUN_DOWN serves slot 0 with a record over `q`; the last sample but one is taken. -/
def runningDown (q : Request) (steps done : Nat) : State :=
  served .runDown { slotOf .converting q with steps := steps, samplesDone := done, currentRange := .g2 }

theorem runningDown_served (q : Request) (steps done : Nat) :
    (runningDown q steps done).atWork ∧ ((runningDown q steps done).convs.look .ca).state = .runDown
      ∧ ((runningDown q steps done).convs.look .ca).serving = .slot 0
      ∧ ((runningDown q steps done).convs.look .ca).currentRange = .g2
      ∧ (runningDown q steps done).slots.look 0 = some { slotOf .converting q with
          steps := steps, samplesDone := done, currentRange := .g2,
          grant := some { conv := .ca, source := none } } :=
  ⟨ready_atWork rfl rfl, rfl, rfl, rfl, rfl⟩

/-- With two steps used on G2 a third may be taken either way; 833 counts of AP2 are below N / 12. -/
theorem test_AutorangeSteps_premises :
    (runningDown { volt with range := 4 } 2 0).atWork
      ∧ ((runningDown { volt with range := 4 } 2 0).convs.look .ca).state = .runDown
      ∧ { volt with range := 4 }.range.toNat = 4 ∧ 2 < 3
      ∧ ((runningDown { volt with range := 4 } 2 0).convs.look .ca).currentRange ≠ .g0
      ∧ ((runningDown { volt with range := 4 } 2 0).convs.look .ca).currentRange ≠ .g3
      ∧ 12 * 833 < { volt with range := 4 }.apertureV.counts :=
  ⟨(runningDown_served _ _ _).1, rfl, by decide, by decide, by decide, by decide, by decide⟩

/-- 12,499 counts of AP2 are the most that are not overrange; the last step used, and 834 counts. -/
theorem test_SampleCounts_premises :
    (runningDown volt 0 2).atWork ∧ 12499 < volt.apertureV.limit ∧ 2 + 1 ≠ volt.samples.toNat
      ∧ volt.range.toNat ≠ 4 ∧ volt.apertureV.counts ≤ 12 * 834 :=
  ⟨(runningDown_served _ _ _).1, by decide, by decide, by decide, by decide⟩

theorem test_ConversionsEnd_premises :
    (runningDown volt 0 3).atWork ∧ volt.modeV ≠ .ref
      ∧ (12499 < volt.apertureV.limit ∧ 3 + 1 = volt.samples.toNat ∧ volt.range.toNat ≠ 4)
      ∧ volt.apertureV.limit ≤ 12500 ∧ 12500 = volt.apertureV.limit :=
  ⟨(runningDown_served _ _ _).1, by decide, by decide, by decide, by decide⟩

/-- CA reads its reference: 6,953 counts of AP2, once inside and once outside tolerance. -/
theorem test_RefResultSetsDegraded_premises :
    let r := { slotOf .converting refCheck with grant := some { conv := .ca, source := none } }
    let s := fun expected => { served .runDown (slotOf .converting refCheck) with
      shadows := (ready.shadows.put 0
        { wordA := 0, wordB := 1073741824, generation := 1, valid := true }).put 14
        { wordA := expected, wordB := 0, generation := 1, valid := true } }
    (∀ expected, (s expected).atWork ∧ ((s expected).cqs.look 0).state = .active
        ∧ ((s expected).convs.look .ca).state = .runDown ∧ (s expected).slots.look 0 = some r
        ∧ ((s expected).shadows.look (voltageEntry .ca .g0)).valid = true
        ∧ ((s expected).shadows.look (refEntry .ca)).valid = true
        ∧ 6953000 = calibratedVoltage (refCheck.apertureV.lsbPerCount * signedCount .pos 6953)
          ((s expected).shadows.look (voltageEntry .ca .g0)))
      ∧ (refCheck.mode = 5 ∧ refCheck.range = 0 ∧ refCheck.raw = false ∧ refCheck.samples = 1
        ∧ 6953 < refCheck.apertureV.limit)
      ∧ (6953000 - ((s 6950000).shadows.look (refEntry .ca)).wordA.toInt).natAbs * 2000
        ≤ ((s 6950000).shadows.look (refEntry .ca)).wordA.toInt.natAbs
      ∧ ¬ (6953000 - ((s 6900000).shadows.look (refEntry .ca)).wordA.toInt).natAbs * 2000
        ≤ ((s 6900000).shadows.look (refEntry .ca)).wordA.toInt.natAbs := by
  refine ⟨fun expected => ⟨ready_atWork rfl rfl, rfl, rfl, rfl, rfl, rfl, ?_⟩, ?_, ?_, ?_⟩
  · exact (by decide +kernel : (6953000 : Int) = calibratedVoltage (1000 * 6953)
      { wordA := 0, wordB := 1073741824, generation := 1, valid := true })
  all_goals decide +kernel

/-- The third of three samples with and without RAW and the entries VALID, and an overranged first one. -/
theorem test_RefResultSetsDegraded_cases_premises :
    let q := fun raw => { refCheck with samples := 3, raw := raw }
    let r := fun raw => { slotOf .converting (q raw) with samplesDone := 2, sum := 13907 }
    let s := fun raw valid => { served .runDown (r raw) with
      shadows := (ready.shadows.put 0
        { wordA := 0, wordB := 1073741824, generation := 1, valid := true }).put 14
        { wordA := 6950000, wordB := 0, generation := 1, valid := valid } }
    (∀ raw valid, (s raw valid).atWork ∧ ((s raw valid).cqs.look 0).state = .active
        ∧ ((s raw valid).convs.look .ca).state = .runDown
        ∧ ((s raw valid).convs.look .ca).serving = .slot 0
        ∧ (s raw valid).slots.look 0
          = some { r raw with grant := some { conv := .ca, source := none } }
        ∧ ((s raw valid).shadows.look (voltageEntry .ca .g0)).valid = true
        ∧ ((s raw valid).shadows.look (refEntry .ca)).valid = valid
        ∧ (q raw).mode = 5 ∧ (q raw).range = 0 ∧ 2 + 1 = (q raw).samples.toNat
        ∧ 6953 < (q raw).apertureV.limit ∧ 12500 = (q raw).apertureV.limit)
      ∧ roundDiv (13907 + signedCount .pos 6953) (2 + 1) = 6953 := by
  refine ⟨fun raw valid => ⟨ready_atWork rfl rfl, rfl, rfl, rfl, rfl, rfl, rfl, rfl, rfl, rfl, ?_, ?_⟩, ?_⟩
  · exact (by decide : 6953 < Aperture.ap2.limit)
  · exact (by decide : 12500 = Aperture.ap2.limit)
  · decide +kernel

/-- Values within the 32-bit range, above it and below it; a current entry of 0. -/
theorem test_CorrectionOrder_premises :
    let volt : Shadow := { wordA := 0, wordB := 1073741824, generation := 1, valid := true }
    let v := fun sum : Int => roundDiv ((1000 * roundDiv sum 1 - volt.wordA.toInt) * volt.wordB.toNat)
      1073741824
    0 < 1 ∧ Shadow.reset.valid = false ∧ volt.valid = true
      ∧ v 3000 = 3000000
      ∧ 2147483647 < roundDiv (v 3000 * 10 ^ (9 - Range.g0.index)) 1000000
      ∧ roundDiv (v (-3000) * 10 ^ (9 - Range.g0.index)) 1000000 < -2147483648
      ∧ -2147483648 ≤ roundDiv (v 3000 * 10 ^ (9 - Range.g0.index)) 10000000
      ∧ roundDiv (v 3000 * 10 ^ (9 - Range.g0.index)) 10000000 ≤ 2147483647 := by decide +kernel

theorem test_CorrectionEndPosts_premises :
    let r := { slotOf .correcting volt with result := some markResult }
    let u := { scanSlot .correcting with result := some markResult }
    ((withSlot 0 r ready).heldInReset = false ∧ (withSlot 0 r ready).device = .ready
        ∧ (withSlot 0 r ready).slots.look 0 = some r ∧ r.orphaned = false
        ∧ ((withSlot 0 r ready).cqs.look r.targetCq).state = .active
        ∧ r.origin = .sq 1 0 (some { tag := 7, seq := 8 }))
      ∧ ((withSlot 0 u scanning).slots.look 0 = some u ∧ u.origin = .scan 0 0 1
        ∧ (withSlot 0 u scanning).templates[((withSlot 0 u scanning).scans.look 0).first + 0]?
          = some bounded ∧ bounded.limits.isSome = true)
      ∧ ((withSlot 0 u scanning).templates[((withSlot 0 u scanning).scans.look 0).first + 1]?
          = some unbounded ∧ unbounded.limits = none) := by
  refine ⟨⟨rfl, rfl, rfl, rfl, by decide, rfl⟩, ⟨rfl, rfl, by decide, by decide⟩, by decide, by decide⟩

/-- An ORPHANED slot, and one of an SQ whose CQ is FAULTED. -/
theorem test_CorrectionEndPosts_freed_premises :
    let r := { slotOf .correcting volt with result := some markResult }
    let u := { scanSlot .correcting with result := some markResult, orphaned := true }
    let s := (withSlot 0 r ready).setCq 1 { ready.cqs.look 1 with state := .faulted }
    (s.heldInReset = false ∧ s.device = .ready ∧ s.slots.look 0 = some r
        ∧ (s.cqs.look r.targetCq).state ≠ .active ∧ r.origin = .sq 1 0 (some { tag := 7, seq := 8 }))
      ∧ ((withSlot 0 u scanning).slots.look 0 = some u ∧ u.orphaned = true) :=
  ⟨⟨rfl, rfl, rfl, by decide, rfl⟩, rfl, rfl⟩

/-- In HALTING another slot holds the halt back; a classified slot whose CQ is FAULTED. -/
theorem test_CorrectionEndPosts_halting_premises :
    let u := { scanSlot .correcting with result := some markResult }
    let w := slotOf .converting ohms
    let s := { ((withSlot 0 u scanning).setSlot 1 (some w)).setCq 1
      { scanning.cqs.look 1 with state := .faulted } with device := .halting }
    s.device = .halting ∧ (1 : Fin 16) ≠ 0 ∧ s.slots.look 1 = some w ∧ w.state ≠ .posting
      ∧ w.state ≠ .fenced ∧ s.slots.look 0 = some u ∧ u.state = .correcting ∧ u.orphaned = false
      ∧ (s.cqs.look u.targetCq).state ≠ .active ∧ u.origin = .scan 0 0 1
      ∧ s.templates[(s.scans.look 0).first + 0]? = some bounded ∧ bounded.limits.isSome = true :=
  ⟨rfl, by decide, rfl, by decide, by decide, rfl, rfl, rfl, by decide, rfl, by decide, by decide⟩

/-- The values next to each threshold of the block of chapter 8, and an OVERRANGE above. -/
theorem test_LimitClassification_premises :
    let l : LimitBlock :=
      { low := 2000000, high := 3000000, hysteresis := 100000, changesOnly := true }
    let r := fun v => { plainResult .success 0 .unknown with value := v }
    l.high < (r 3000001).value ∧ ¬ l.high < (r 3000000).value ∧ (r 1999999).value < l.low
      ∧ ¬ (r 2000000).value < l.low ∧ (r 2900000).value ≤ l.high - (l.hysteresis : Int)
      ∧ l.low + (l.hysteresis : Int) ≤ (r 2100000).value ∧ bounded.limits = some l
      ∧ failingTemplateCheck bounded = none := by decide

theorem test_RecordLayout_premises :
    volt.mode.toNat = 0 ∧ ohms.mode.toNat = 3 ∧ refCheck.mode.toNat = 5
      ∧ volt.range.toNat = Range.g2.index ∧ { volt with range := 4 }.range.toNat = 4
      ∧ volt.aperture.toNat = 2 ∧ ohms.level.toNat = Level.i1.index := by decide

/-- A ring with one member, and with one place left. -/
def posting (m : Member) : State :=
  ready.setCq 1 { ready.cqs.look 1 with list := [m], tail := 6 }

theorem test_WriteBegins_premises (m : Member) :
    (posting m).atWork
      ∧ ((posting m).cqs.look 1).state = .active ∧ ((posting m).cqs.look 1).list = m :: []
      ∧ ((posting m).cqs.look 1).writing = none
      ∧ (((posting m).cqs.look 1).tail + 1) % ((posting m).cqs.look 1).size
        ≠ ((posting m).cqs.look 1).head
      ∧ ({ slotOf .posting volt with result := some markResult }).result = some markResult
      ∧ (slotOf .posting volt).origin = .sq 1 0 (some { tag := 7, seq := 8 })
      ∧ (scanSlot .posting).origin = .scan 0 0 1 :=
  ⟨ready_atWork rfl rfl, rfl, rfl, rfl, (by decide : ((6 + 1) % 8 : Nat) ≠ 0), rfl, rfl, rfl⟩

/-- At the wrap, with the threshold reached by this record and not reached. -/
theorem test_RecordWriteCompletes_premises (m : Member) :
    let d := fun n => { newCq 0 8 true n 1 with
      tail := 7, list := [m], writing := some (Record.zero true), unsignalled := 1 }
    ∀ n, (ready.setCq 1 (d n)).heldInReset = false ∧ (ready.setCq 1 (d n)).device = .ready
      ∧ (ready.setCq 1 (d n)).cqs.look 1 = d n ∧ (d n).list = m :: []
      ∧ (d n).writing = some (Record.zero true) ∧ (d 2).threshold ≤ (d 2).unsignalled + 1
      ∧ (d 3).unsignalled + 1 < (d 3).threshold ∧ (newCq 0 8 true 1 0).writing = none := by
  intro d n
  refine ⟨rfl, rfl, rfl, rfl, rfl, ?_, ?_, rfl⟩
  · exact Nat.le_refl 2
  · exact Nat.lt_succ_self 2

theorem test_CqWriteErrorFaultsTheRing_premises :
    let d := { scanning.cqs.look 1 with list := [.slot 0], writing := some (Record.zero true) }
    let s := ((withSlot 0 (slotOf .posting volt) scanning).setSlot 1
      (some (scanSlot .waiting))).setCq 1 d
    s.heldInReset = false ∧ s.device = .ready ∧ (1 : Fin 8) ≠ 0 ∧ (s.cqs.look 0).state = .active
      ∧ s.cqs.look 1 = d ∧ d.state = .active ∧ d.writing.isSome = true
      ∧ (s.scans.look 0).state = .running ∧ (s.scans.look 0).target = some 1
      ∧ s.slots.look 1 = some (scanSlot .waiting) ∧ Member.slot 1 ∉ d.list
      ∧ (scanSlot .waiting).fromScan 0 = true ∧ Member.slot 0 ∈ d.list := by
  refine ⟨rfl, rfl, by decide, by decide, rfl, rfl, rfl, by decide, by decide, rfl, by decide,
    by decide, by decide⟩

/-- A SCAN_STOP waits on the scan that loses its target. -/
theorem test_CqWriteErrorFaultsTheRing_stop_premises :
    let s := { scanning.setScan 0 { scan0 with state := .stopping } with
      ax := .executing (inHand (.stopping 0)) }
    (s.scans.look 0).state = .stopping ∧ (s.scans.look 0).target = some 1
      ∧ s.ax = .executing (inHand (.stopping 0)) ∧ (inHand (.stopping 0)).work = .stopping 0
      ∧ (∀ ctx, s.ax = .executing ctx → ctx.commandId = 5)
      ∧ ∀ k : Fin 8, decide (k = 0) = true ↔
          ((s.scans.look k).state = .running ∨ (s.scans.look k).state = .stopping)
            ∧ (s.scans.look k).target = some 1 :=
  ⟨rfl, rfl, rfl, rfl, fun _ h => by cases h; rfl, by decide⟩

/-- Chapter 8: the loss of a target is reported with the CQ's id, after the write error with TAIL. -/
theorem test_events_of_a_lost_target :
    let s := scanning.setCq 1 { scanning.cqs.look 1 with tail := 6, writing := some (Record.zero true) }
    ((after (.cqWriteBusError 1) s).cqs.look 0).list
      = [.event { kind := .cqWriteError, object := 1, mergeCount := 1, value := 6 },
         .event { kind := .scanTargetLost, object := 0, mergeCount := 1, value := 1 }] := by
  decide +kernel

/-- A write of entry 9 in the phase `p`, with one pulse left to apply. -/
def writing (p : WritePhase) (cell : CalImage) (pulses : Nat) : State :=
  { executing .calWriting with
    writeCtx := some
      { entry := 9, image := imageOf 99870000 0, budget := 4, pulses := pulses, phase := p }
    cells := ready.cells.put 9 { image := cell, counter := 5 } }

theorem test_ChargeAndPulse_premises (p : WritePhase) :
    let s := writing p (imageOf 0 0) 3
    s.atWork ∧ s.writeCtx.map WriteCtx.phase = some p ∧ s.device = .ready
      ∧ s.ax = .executing (inHand .calWriting) ∧ (inHand .calWriting).work = .calWriting
      ∧ (s.cqs.look 0).state = .active :=
  ⟨ready_atWork rfl rfl, rfl, rfl, rfl, rfl, rfl⟩

theorem test_VerifyDecidesTheWrite_premises :
    let w : Nat → WriteCtx := fun n =>
      { entry := 9, image := imageOf 99870000 0, budget := 4, pulses := n, phase := .verify }
    (∀ cell n, (writing .verify cell n).heldInReset = false
        ∧ (writing .verify cell n).device = .ready ∧ (writing .verify cell n).writeCtx = some (w n)
        ∧ (writing .verify cell n).ax = .executing (inHand .calWriting)
        ∧ ((writing .verify cell n).cqs.look 0).state = .active
        ∧ ((writing .verify cell n).cells.look 9).image = cell)
      ∧ imageOf 0 0 ≠ (w 0).image ∧ (w 4).budget ≤ (w 4).pulses ∧ (w 3).pulses < (w 3).budget := by
  refine ⟨fun cell n => ⟨rfl, rfl, rfl, rfl, rfl, rfl⟩, ?_⟩
  decide +kernel

theorem taking_mayTake : taking.mayTake 3 :=
  ⟨ready_atWork rfl rfl, rfl, by decide, by decide, by decide⟩

theorem test_CalWriteCommits_premises :
    taking.mayTake 3 ∧ taking.device = .ready ∧ (15 : Byte).toNat ≤ 15 ∧ 15 < (16 : Byte).toNat
      ∧ (3 : Byte).toNat ≤ 3 ∧ 3 < (4 : Byte).toNat ∧ wordAInRange 7 1000000 = true
      ∧ wordAInRange 7 1000001 = false ∧ gainInRange 536870912 = true ∧ gainInRange 536870911 = false
      ∧ (1 : BitVec 16).toNat ≠ (taking.cells.look 7).counter
      ∧ (0 : BitVec 16).toNat = (taking.cells.look 7).counter ∧ (taking.cells.look 7).counter < 65535
      ∧ (let s := { taking with cells := taking.cells.put 7 { image := imageOf 0 0, counter := 65535 } }
        (65535 : BitVec 16).toNat = (s.cells.look 7).counter ∧ 65535 ≤ (s.cells.look 7).counter) :=
  ⟨taking_mayTake, by decide +kernel⟩

theorem test_BufferCommands_premises :
    taking.mayTake 3 ∧ taking.device = .ready ∧ (15 : Byte).toNat ≤ 15 ∧ 15 < (16 : Byte).toNat
      ∧ ∀ w, (executing w).heldInReset = false ∧ (executing w).device = .ready
        ∧ (executing w).ax = .executing (inHand w) ∧ ((executing w).cqs.look 0).state = .active :=
  ⟨taking_mayTake, rfl, by decide, by decide, fun _ => ⟨rfl, rfl, rfl, rfl⟩⟩

/-- The bytes of the identity record of READY: IDENT, CQ0 ACTIVE at 32, CQ1 at 33, CQ2 NONE (chapter 12). -/
theorem test_identity_record :
    let b := fun n => (identityRecord ready).extractLsb' (8 * n) 8
    b 0 = 0x10#8 ∧ b 13 = 128#8 ∧ b 24 = 1#8 ∧ b 33 = 1#8 ∧ b 34 = 0#8 := by decide +kernel

theorem test_AdminFetch_premises :
    let s := { taking with ax := .idle }
    let u := { taking with ax := .fetching 4 }
    (s.heldInReset = false ∧ s.device = .ready ∧ s.ax = .idle ∧ (s.sqs.look 0).state = .active
        ∧ (s.sqs.look 0).head ≠ (s.sqs.look 0).tail)
      ∧ (u.ax = .fetching (u.sqs.look 0).tail ∧ (u.sqs.look 0).state = .active)
      ∧ ([0x10, 0x11, 0x12, 0x13, 0x14, 0x15, 0x16, 0x17, 0x18, 0x19, 0x1A, 0x1B].map fun n =>
          (entryOpcode (entryOf [n])).toNat)
        = [0x10, 0x11, 0x12, 0x13, 0x14, 0x15, 0x16, 0x17, 0x18, 0x19, 0x1A, 0x1B]
      ∧ taking.mayTake 3 ∧ (15 : Byte).toNat < 16 ∧ 27 < (28 : Byte).toNat
      ∧ entryOpcode (entryOf [28, 0, 9]) = 28 ∧ entryHalf (entryOf [28, 0, 9]) 2 = 9 :=
  ⟨by decide, by decide, by decide +kernel, taking_mayTake, by decide, by decide, by decide +kernel,
    by decide +kernel⟩

/-- The least and the greatest values of every field; ring 2 is NONE. -/
theorem test_CreateRings_premises :
    taking.mayTake 3 ∧ taking.device = .ready ∧ (0 : Byte).toNat = 0 ∧ 7 < (8 : Byte).toNat
      ∧ (1 ≤ (7 : Byte).toNat ∧ (7 : Byte).toNat ≤ 7 ∧ (taking.cqs.look (eighth 7)).state ≠ .absent
        ∧ (taking.sqs.look (eighth 7)).state ≠ .absent)
      ∧ ((taking.cqs.look (eighth 2)).state = .absent ∧ (taking.sqs.look (eighth 2)).state = .absent)
      ∧ ((0xFFFFE000 : Word).toNat % 64 = 0
        ∧ (0xFFFFE000 : Word).toNat + 32 * (256 : BitVec 16).toNat ≤ 2 ^ 32
        ∧ (0xFFFFC000 : Word).toNat + 64 * (256 : BitVec 16).toNat ≤ 2 ^ 32
        ∧ 2 ≤ (2 : BitVec 16).toNat ∧ (64 : Byte).toNat ≤ 64 ∧ (16 : Byte).toNat ≤ 16)
      ∧ (taking.cqs.look (eighth 1)).state = .active :=
  ⟨taking_mayTake, by decide +kernel⟩

/-- `taking` in HALTING, held back by a CONVERTING slot. -/
def haltingTaking : State := { withSlot 0 (slotOf .converting volt) taking with device := .halting }

/-- BUSY in HALTING, and for each check the values on either side of its bounds; CQ2 is NONE. -/
theorem test_CreateRings_checks_premises :
    (haltingTaking.mayTake 3 ∧ haltingTaking.device = .halting)
      ∧ ((16 : Word).toNat % 32 ≠ 0 ∧ (32 : Word).toNat % 64 ≠ 0
        ∧ 2 ^ 32 < (0xFFFFE020 : Word).toNat + 32 * (256 : BitVec 16).toNat
        ∧ 2 ^ 32 < (0xFFFFC040 : Word).toNat + 64 * (256 : BitVec 16).toNat)
      ∧ ((1 : BitVec 16).toNat < 2 ∧ 256 < (257 : BitVec 16).toNat)
      ∧ ((0 : Byte).toNat = 0 ∧ 64 < (65 : Byte).toNat ∧ 7 < (8 : Byte).toNat ∧ 3 < (4 : Byte).toNat
        ∧ (3 : Byte).toNat ≤ 3 ∧ 16 < (17 : Byte).toNat)
      ∧ (taking.cqs.look (eighth 2)).state ≠ .active :=
  ⟨⟨⟨⟨rfl, .inr ⟨rfl, 0, slotOf .converting volt, rfl, by decide, by decide⟩⟩, rfl, by decide, by decide,
    by decide⟩, rfl⟩, by decide +kernel⟩

/-- CQ7 is free of SQs once SQ7 is bound to CQ1; CQ1 is not; scan 0 runs to CQ1. -/
theorem test_DeleteCq_premises :
    let s := { scanning with sqs := taking.sqs, ax := taking.ax }
    let u := (s.setSq 1 Sq.gone).setSq 7 Sq.gone
    s.mayTake 3 ∧ s.device = .ready ∧ (s.cqs.look (eighth 2)).state = .absent
      ∧ (s.cqs.look 1).state ≠ .absent
      ∧ ((s.sqs.look 1).state ≠ .absent ∧ (s.sqs.look 1).boundCq = 1
        ∧ ∀ p : Fin 8, p < 1 → ¬ ((s.sqs.look p).state ≠ .absent ∧ (s.sqs.look p).boundCq = 1))
      ∧ (u.mayTake 3 ∧ (∀ q, ¬ ((u.sqs.look q).state ≠ .absent ∧ (u.sqs.look q).boundCq = 1))
        ∧ (u.scans.look 0).state = .running ∧ (u.scans.look 0).target = some 1)
      ∧ ((u.cqs.look 7).state ≠ .absent
        ∧ (∀ q, ¬ ((u.sqs.look q).state ≠ .absent ∧ (u.sqs.look q).boundCq = 7))
        ∧ ∀ k, ¬ (((u.scans.look k).state = .running ∨ (u.scans.look k).state = .stopping)
          ∧ (u.scans.look k).target = some 7)) :=
  ⟨⟨ready_atWork rfl rfl, rfl, by decide, by decide, by decide⟩, rfl, by decide, by decide, by decide,
    ⟨⟨ready_atWork rfl rfl, rfl, by decide, by decide, by decide⟩, by decide, by decide, by decide⟩,
    by decide⟩

theorem test_DeleteSq_premises :
    let s := withSlot 0 (slotOf .correcting volt) taking
    let u := (executing (.deleting 1 2)).setSq 1 { ring with state := .deleting }
    (taking.mayTake 3 ∧ taking.device = .ready ∧ (taking.sqs.look (eighth 2)).state = .absent
        ∧ (taking.sqs.look (eighth 1)).state ≠ .absent
        ∧ ∀ i r, taking.slots.look i = some r → r.fromSq 1 = false)
      ∧ (s.mayTake 3 ∧ s.slots.look 0 = some (slotOf .correcting volt)
        ∧ (slotOf .correcting volt).fromSq 1 = true)
      ∧ (u.heldInReset = false ∧ u.device = .ready ∧ u.ax = .executing (inHand (.deleting 1 2))
        ∧ (u.sqs.look 1).state = .deleting ∧ (u.cqs.look 0).state = .active
        ∧ ∀ i r, u.slots.look i = some r → r.fromSq 1 = false) := by
  refine ⟨⟨taking_mayTake, rfl, by decide, by decide, ?_⟩,
    ⟨⟨ready_atWork rfl rfl, rfl, by decide, by decide, by decide⟩, rfl, by decide⟩,
    rfl, rfl, rfl, by decide, by decide, ?_⟩
  · intro i r h
    cases (ready_free i).symm.trans h
  · intro i r h
    cases (ready_free i).symm.trans h

/-- A WAITING slot of the SQ that its CQ receives, and one that it does not. -/
theorem test_DeleteSq_outcome_premises :
    let s := fun c => withSlot 0 { slotOf .waiting volt with targetCq := c } taking
    (∀ c, (s c).mayTake 3 ∧ (s c).slots.look 0 = some { slotOf .waiting volt with targetCq := c }
        ∧ AgeLaw (s c))
      ∧ (s 1).receives { slotOf .waiting volt with targetCq := 1 }
      ∧ ¬ (s 2).receives { slotOf .waiting volt with targetCq := 2 }
      ∧ (slotOf .waiting volt).fromSq 1 = true
      ∧ 1 = (s 1).countSlots (fun r => r.fromSq 1 && r.abortCounts) := by
  intro s
  refine ⟨fun c => ⟨⟨ready_atWork rfl rfl, taking_mayTake.2⟩, rfl, by simp [s, withSlot], ?_⟩,
    ⟨by decide, rfl⟩, fun h => absurd h.1 (by decide), by decide, by decide +kernel⟩
  intro i
  by_cases h : i = 0
  · subst h
    simp [s, withSlot]
  · have : (taking.slots.look i) = none := ready_free i
    simp [s, withSlot, h, this]

/-- DELETE_SQ aborts with detail 2 and keeps the count while the record waits (R40, R190). -/
theorem test_delete_sq_aborts :
    let t := after (.deleteSq 5 1) (withSlot 0 (slotOf .waiting volt) taking)
    (t.slots.look 0).map (fun r => r.result.map fun x => (x.status, x.aux)) = some (some (.aborted, 2))
      ∧ (t.sqs.look 1).state = .deleting ∧ t.axWork = .deleting 1 1 := by decide +kernel

theorem test_AbortReachesTheSlot_premises :
    let s := fun st g => withSlot 0 { slotOf st volt with grant := g } taking
    ∀ st g, (s st g).mayTake 3 ∧ (s st g).device = .ready ∧ (1 : Byte).toNat = (1 : Fin 8).val
      ∧ ((s st g).sqs.look 1).state ≠ .absent ∧ AgeLaw (s st g)
      ∧ (∀ i r position a, (s st g).slots.look i = some r → r.origin = .sq 1 position (some a) →
          r.state ≠ .fetching → a.tag ≠ 6)
      ∧ (s st g).slots.look 0 = some { slotOf st volt with grant := g }
      ∧ (∀ j x p b, j ≠ 0 → (s st g).slots.look j = some x → x.origin = .sq 1 p (some b) → b.tag ≠ 7)
      ∧ ((s st g).cqs.look 1).state = .active := by
  intro s st g
  refine ⟨⟨ready_atWork rfl rfl, taking_mayTake.2⟩, rfl, rfl,
    (by decide : (taking.sqs.look 1).state ≠ .absent), ⟨by simp [s, withSlot], ?_⟩, ?_, rfl, ?_,
    (by decide : (taking.cqs.look 1).state = .active)⟩
  · intro i
    by_cases h : i = 0
    · subst h
      simp [s, withSlot]
    · have : (taking.slots.look i) = none := ready_free i
      simp [s, withSlot, h, this]
  · intro i r position a h ho _
    rw [(withSlot_only (s := taking) ready_free h).2] at ho
    cases ho
    decide
  · intro j x p b hj h
    exact absurd (withSlot_only (s := taking) ready_free h).1 hj

/-- The checks of ABORT; a selection by TAG 7 of SQ1, and of all of it; a slot that its CQ receives, and one
whose CQ is NONE. -/
theorem test_AbortReachesTheSlot_selection_premises :
    let byTag : SlotRec → Bool := abortSelects 1 false 7
    taking.mayTake 3 ∧ 7 < (8 : Byte).toNat ∧ (0 : Byte).toNat = 0 ∧ 1 < (2 : Byte).toNat
      ∧ (taking.sqs.look (eighth 2)).state = .absent
      ∧ (∀ r, byTag r = true ↔ ∃ position a, r.origin = .sq 1 position a
        ∧ ((0 : Byte).toNat = 1 ∨ r.state ≠ .fetching ∧ ∃ x, a = some x ∧ x.tag = 7))
      ∧ (∀ r : SlotRec, r.fromSq 1 = true ↔ ∃ position a, r.origin = .sq 1 position a
        ∧ ((1 : Byte).toNat = 1 ∨ r.state ≠ .fetching ∧ ∃ x, a = some x ∧ x.tag = 7))
      ∧ taking.receives (slotOf .waiting volt)
      ∧ ¬ taking.receives { slotOf .waiting volt with targetCq := 2 }
      ∧ (slotOf .waiting volt).targetCq ≠ 0 := by
  refine ⟨taking_mayTake, by decide, by decide, by decide, by decide, ?_, ?_, ⟨by decide, rfl⟩,
    fun h => absurd h.1 (by decide), by decide⟩
  · intro r
    rcases h : r.origin with ⟨q, p, a⟩ | ⟨k, n, p⟩
    · cases a <;> simp [abortSelects, h]
    · simp [abortSelects, h]
  · intro r
    rcases h : r.origin with ⟨q, p, a⟩ | ⟨k, n, p⟩ <;> simp [SlotRec.fromSq, h]

/-- Scans 0 and 1 of `scanning` with the AX fetching: scan 0 RUNNING or LOADED, scan 1 EMPTY. -/
def scanTaking (st : ScanState) : State :=
  { scanning.setScan 0 { scan0 with state := st, counting := false } with
    sqs := taking.sqs, ax := taking.ax }

theorem scanTaking_mayTake (st : ScanState) : (scanTaking st).mayTake 3 :=
  ⟨ready_atWork rfl rfl, taking_mayTake.2⟩

theorem scanTaking_scanLaw (st : ScanState) (h : st ≠ .empty) : ScanLaw (scanTaking st) := by
  refine ⟨?_, (by decide : 2 ≤ 128), ?_, nofun⟩
  · cases st <;> decide
  · intro k
    revert k
    unfold Scan.lawful
    cases st
    · exact absurd rfl h
    all_goals decide +kernel

theorem test_ScanLoad_premises :
    let s := scanTaking .loaded
    let u := { scanTaking .loaded with ax := .executing (inHand (.scanLoadDma 1 2 0)) }
    (s.mayTake 3 ∧ s.device = .ready ∧ ScanLaw s ∧ 7 < (8 : Byte).toNat ∧ 32 < (33 : Byte).toNat
        ∧ (s.scans.look 0).state = .loaded ∧ (s.scans.look 1).state = .empty
        ∧ (∀ i r, s.slots.look i = some r → r.fromScan 1 = false)
        ∧ 1 ≤ (32 : Byte).toNat ∧ s.templates.length + (32 : Byte).toNat ≤ 128 + (s.scans.look 1).count)
      ∧ (scanTaking .running).mayTake 3 ∧ ((scanTaking .running).scans.look 0).state = .running
      ∧ (u.heldInReset = false ∧ u.device = .ready ∧ ScanLaw u
        ∧ u.ax = .executing (inHand (.scanLoadDma 1 2 0)) ∧ (u.cqs.look 0).state = .active ∧ 1 ≤ 2
        ∧ [voltEntry, voltEntry].length = 2
        ∧ failingTemplateCheck (entryTemplate voltEntry) = none
        ∧ failingTemplateCheck (entryTemplate (entryOf [2])) = some 1) := by
  refine ⟨⟨scanTaking_mayTake _, rfl, scanTaking_scanLaw _ (by decide), by decide, by decide,
    by decide, by decide, ?_, by decide, by decide +kernel⟩, scanTaking_mayTake _, by decide,
    rfl, rfl, ?_, rfl, by decide, by decide, rfl, by decide +kernel, by decide +kernel⟩
  · intro i r h
    have : (scanTaking .loaded).slots.look i = none := ready_free i
    rw [this] at h
    cases h
  · obtain ⟨h1, h2, h3, -⟩ := scanTaking_scanLaw .loaded (by decide)
    refine ⟨h1, h2, h3, ?_⟩
    intro k n addr h
    cases h
    exact ⟨.inl (by decide), by decide⟩

/-- No free place is left for one more template. -/
theorem test_ScanLoad_full_premises :
    let full := { Scan.reset with state := .loaded, count := 128, nextTemplate := 128 }
    let s := { (taking.setScan 0 full) with templates := List.replicate 128 unbounded }
    s.mayTake 3 ∧ s.device = .ready ∧ (s.scans.look 1).state = .empty
      ∧ 128 + (s.scans.look 1).count < s.templates.length + (1 : Byte).toNat :=
  ⟨⟨ready_atWork rfl rfl, rfl, by decide, by decide, by decide⟩, rfl, by decide, by decide +kernel⟩

theorem test_ScanStart_premises :
    (∀ st, st ≠ ScanState.empty → (scanTaking st).mayTake 3 ∧ (scanTaking st).device = .ready
        ∧ ScanLaw (scanTaking st) ∧ ((scanTaking st).scans.look 0).state = st
        ∧ (∀ i r, (scanTaking st).slots.look i = some r → r.fromScan 0 = false))
      ∧ ((scanTaking .loaded).scans.look 1).state = .empty
      ∧ ((scanTaking .loaded).cqs.look (eighth 7)).state = .active
      ∧ ((scanTaking .loaded).cqs.look (eighth 2)).state ≠ .active
      ∧ (7 : Byte).toNat ≤ 7 ∧ 7 < (8 : Byte).toNat ∧ 1 ≤ (1 : BitVec 16).toNat
      ∧ (3 : Byte).toNat ≤ 3 ∧ 3 < (4 : Byte).toNat ∧ (16 : Byte).toNat ≤ 16 ∧ 16 < (17 : Byte).toNat := by
  refine ⟨fun st h => ⟨scanTaking_mayTake st, rfl, scanTaking_scanLaw st h, rfl, ?_⟩, by decide,
    by decide, by decide, by decide⟩
  intro i r hr
  have : (scanTaking st).slots.look i = none := ready_free i
  rw [this] at hr
  cases hr

/-- A pass in progress, one ended, the last one ended, and a stop that waits. -/
theorem test_ScanStopAndPassEnd_premises :
    let s := scanTaking .running
    let p := { scan0 with nextTemplate := 1 }
    let l := { scan0 with remaining := 0 }
    let w := (executing (.stopping 0)).setScan 0 { scan0 with state := .stopping, counting := false }
    (s.mayTake 3 ∧ s.device = .ready ∧ (1 : Fin 8) ≠ 0 ∧ (s.cqs.look 1).state = .active
        ∧ (s.cqs.look 0).state = .active ∧ (s.scans.look 0).count ≤ (s.scans.look 0).nextTemplate
        ∧ (s.scans.look 0).outstanding = 0 ∧ (s.scans.look 0).target = some 1)
      ∧ ((s.setScan 0 p).mayTake 3 ∧ p.state = .running ∧ p.nextTemplate < p.count)
      ∧ ((s.setScan 0 l).scans.look 0 = l ∧ l.state = .running ∧ l.passLimit ≠ 0 ∧ l.remaining = 0)
      ∧ ((w.scans.look 0).state = .stopping ∧ w.ax = .executing (inHand (.stopping 0))
        ∧ (inHand (.stopping 0)).work = .stopping 0) :=
  ⟨⟨scanTaking_mayTake _, rfl, by decide, by decide, by decide, by decide, by decide, by decide⟩,
    ⟨⟨ready_atWork rfl rfl, rfl, by decide, by decide, by decide⟩, rfl, by decide⟩,
    ⟨rfl, rfl, by decide, rfl⟩, rfl, rfl, rfl⟩

/-- A pass ends with passes left and the countdown running. -/
theorem test_ScanStopAndPassEnd_next_pass_premises :
    scanning.atWork ∧ scanning.device = .ready ∧ scanning.scans.look 0 = scan0 ∧ scan0.state = .running
      ∧ scan0.count ≤ scan0.nextTemplate ∧ scan0.outstanding = 0 ∧ scan0.remaining ≠ 0
      ∧ (scan0.counting = true → scan0.countdown ≠ 0) :=
  ⟨ready_atWork rfl rfl, rfl, rfl, rfl, by decide, rfl, by decide, fun _ => by decide⟩

/-- The halt holds a RUNNING scan whose pass has ended, and one whose target is FAULTED is stopped. -/
theorem test_ScanStopAndPassEnd_halting_premises :
    let s := { withSlot 0 (slotOf .converting volt) (scanTaking .running) with device := .halting }
    let u := s.setCq 1 { s.cqs.look 1 with state := .faulted }
    u.mayTake 3 ∧ u.device = .halting ∧ (u.scans.look 0).state = .running
      ∧ (u.scans.look 0).count ≤ (u.scans.look 0).nextTemplate ∧ (u.scans.look 0).outstanding = 0
      ∧ (u.scans.look 0).target = some 1 ∧ (u.cqs.look 1).state ≠ .active :=
  ⟨⟨⟨rfl, .inr ⟨rfl, 0, slotOf .converting volt, rfl, by decide, by decide⟩⟩, rfl, by decide,
    by decide, by decide⟩, rfl, by decide, by decide, by decide, by decide, by decide⟩

/-- A HALTING device: slot 0 of SQ1 CONVERTING, scan 0 LOADED, and the AX fetching. -/
def halting : State :=
  { withSlot 0 (slotOf .converting volt) (scanTaking .loaded) with device := .halting }

/-- The commands taken in HALTING: the AX holds an entry; CQ1 has no member that is the CONVERTING slot;
SQ2 does not own that slot, and a slot of SQ1 in CORRECTING or FETCHING holds the halt too. -/
theorem test_commands_in_halting_premises :
    halting.mayTake 3 ∧ halting.device = .halting ∧ ScanLaw halting ∧ AgeLaw halting
      ∧ halting.slots.look 0 = some (slotOf .converting volt)
      ∧ Member.slot 0 ∉ (halting.cqs.look 1).list ∧ (slotOf .converting volt).fromSq 2 = false
      ∧ (slotOf .converting volt).state ≠ .posting ∧ (slotOf .converting volt).state ≠ .fenced
      ∧ (withSlot 0 (slotOf .correcting volt) halting).slots.look 0 = some (slotOf .correcting volt)
      ∧ (halting.scans.look 0).state = .loaded :=
  ⟨⟨⟨rfl, .inr ⟨rfl, 0, slotOf .converting volt, by decide, by decide, by decide⟩⟩,
      rfl, by decide, by decide, by decide⟩,
    rfl, scanTaking_scanLaw .loaded (by decide), ⟨by decide, by decide⟩, rfl, by decide, by decide,
    by decide, by decide, rfl, by decide⟩

/-- The ends of the AX's transfers in HALTING, with the CONVERTING slot outside the list of the ring that
is written. -/
theorem test_transfers_in_halting_premises (w : AxWork) :
    let s := { halting with ax := .executing (inHand w) }
    let d := { halting.cqs.look 1 with list := [.slot 1], writing := some (Record.zero true) }
    s.atWork ∧ s.ax = .executing (inHand w) ∧ (s.cqs.look 0).state = .active
      ∧ (s.setCq 1 d).device = .halting ∧ (s.setCq 1 d).cqs.look 1 = d
      ∧ (s.setCq 1 d).slots.look 0 = some (slotOf .converting volt)
      ∧ Member.slot 1 ≠ .slot 0 ∧ Member.slot 0 ∉ d.list :=
  ⟨⟨rfl, .inr ⟨rfl, 0, slotOf .converting volt, rfl, by decide, by decide⟩⟩,
    rfl, rfl, rfl, rfl, rfl, by decide, by decide⟩

/-- A read in progress in HALTING, its abort pending, beside the CONVERTING slot. -/
theorem test_fetches_in_halting_premises :
    let r := { fetchingRec ready 1 with pendingAbort := some .halt }
    let s := halting.setSlot 1 (some r)
    s.heldInReset = false ∧ s.device = .halting ∧ (0 : Fin 16) ≠ 1
      ∧ s.slots.look 0 = some (slotOf .converting volt) ∧ (slotOf .converting volt).state ≠ .posting
      ∧ (slotOf .converting volt).state ≠ .fenced ∧ s.slots.look 1 = some r ∧ r.state = .fetching
      ∧ r.origin = .sq 1 (ready.sqs.look 1).head none ∧ r.orphaned = false
      ∧ (s.cqs.look 0).state = .active :=
  ⟨rfl, rfl, by decide, rfl, by decide, by decide, rfl, rfl, rfl, rfl, by decide⟩

theorem test_ScanStatusReports_premises :
    (scanTaking .running).mayTake 3 ∧ (scanTaking .running).device = .ready
      ∧ (7 : Byte).toNat ≤ 7 ∧ 7 < (8 : Byte).toNat :=
  ⟨scanTaking_mayTake _, rfl, by decide, by decide⟩

/-- Countdowns of 2, 1 and 0; a pass in progress and none; passes left on the last and unlimited. -/
theorem test_TickAndExpiry_premises :
    let sc := fun n p => { scan0 with countdown := n, nextTemplate := p, remaining := 1 }
    ∀ n p, (scanning.setScan 0 (sc n p)).heldInReset = false
      ∧ (scanning.setScan 0 (sc n p)).device = .ready
      ∧ (scanning.setScan 0 (sc n p)).scans.look 0 = sc n p ∧ (sc n p).counting = true
      ∧ (sc n p).state = .running ∧ (sc 2 p).countdown = 2 ∧ (sc 0 p).countdown = 0
      ∧ (sc n 1).nextTemplate < (sc n 1).count ∧ (sc n 2).count ≤ (sc n 2).nextTemplate
      ∧ (sc n 2).outstanding = 0 ∧ (sc n p).remaining ≠ 0 ∧ (sc n p).period ≠ 0
      ∧ 0 < (sc n p).count
      ∧ ((scanning.setScan 0 { sc n p with counting := false }).scans.look 0).counting = false := by
  intro sc n p
  refine ⟨rfl, rfl, rfl, rfl, rfl, rfl, rfl, ?_, ?_, rfl, ?_, ?_, ?_, rfl⟩
  · exact Nat.lt_succ_self 1
  · exact Nat.le_refl 2
  · exact Nat.one_ne_zero
  · exact (by decide : (20 : Nat) ≠ 0)
  · exact (by decide : 0 < 2)

/-! A state of work with a command at the front meets the laws that the invariant statements start
from, and its step answers a next state. -/

/-- A RES_4W request waits on a scan that runs, and a tick is next. -/
def queuedTick : State :=
  { withSlot 0 (slotOf .waiting ohms) scanning with pending := [.timebaseTick] }

theorem queuedTick_only {i : Fin 16} {r : SlotRec} (h : queuedTick.slots.look i = some r) :
    i = 0 ∧ r = slotOf .waiting ohms := withSlot_only (s := scanning) ready_free h

theorem test_step_answers : ∃ t, step queuedTick = .next t := ⟨_, rfl⟩

theorem test_TableLawsKept_premises :
    AgeLaw queuedTick ∧ RingLaw queuedTick ∧ WaitingLaw queuedTick := by
  refine ⟨⟨by decide, by decide⟩, ready_ringLaw, ?_⟩
  intro i r h _
  rw [(queuedTick_only h).2]
  exact ⟨ohms, rfl, rfl⟩

theorem test_SlotCountLawsKept_premises : SlotCountLaw queuedTick ∧ OutstandingLaw queuedTick := by
  unfold SlotCountLaw OutstandingLaw
  decide +kernel

theorem test_TerminalLawKept_premises : TerminalLaw queuedTick := by
  refine ⟨by decide, ?_, ?_⟩
  · intro i r ns h hn
    rw [(queuedTick_only h).2] at hn
    cases hn
    unfold NeedSet.distinct
    decide
  · intro t ht
    have : t.request = volt := by
      rcases List.mem_cons.1 ht with rfl | ht
      · rfl
      · rw [List.mem_singleton.1 ht]
        rfl
    rw [this]
    unfold NeedSet.distinct
    decide

theorem test_HolderLawKept_premises : HolderLaw (served .runUp (slotOf .converting volt)) := by
  constructor
  · intro c
    cases c
    · refine ⟨by decide, ?_, fun _ _ => by decide⟩
      decide
    · refine ⟨by decide, ?_, fun i h => by cases h⟩
      decide
  · intro x
    cases x <;> rfl

theorem test_StoreLawKept_premises : StoreLaw (writing .charge (imageOf 0 0) 3) := by
  refine ⟨by decide, ?_, ?_⟩
  · intro e h
    have : (State.reset.shadows.look e).valid = false := by revert e; decide
    rw [show (writing .charge (imageOf 0 0) 3).shadows.look e = State.reset.shadows.look e from rfl,
      this] at h
    cases h
  · intro w h
    cases h
    decide +kernel

theorem test_ScanLawKept_premises : ScanLaw (scanTaking .running) :=
  scanTaking_scanLaw _ (by decide)

theorem test_RingLawsKept_premises : RingLaw ready ∧ MergingLaw ready :=
  ⟨ready_ringLaw, by unfold MergingLaw; decide⟩

theorem test_DeviceLawsKept_premises : DeviceLaw queuedTick ∧ AdminLaw queuedTick := by
  refine ⟨⟨nofun, fun _ => ⟨rfl, rfl⟩, nofun, ?_⟩, by decide, by decide, ?_, nofun⟩
  · intro c h
    cases c <;> cases h
  · intro k h
    have : (queuedTick.scans.look k).state ≠ .stopping := by revert k; decide
    exact absurd h this

end Sys2Proof.Tests
end

section
/-! The validation of a request as a table: the checks of R17 by their numbers, and the failing
check as the least number whose condition holds. -/

namespace Sys2Proof.Machine

/-! ### The modes by their codes (R203) -/

/-- The code of a mode (R203). -/
def Mode.code : Mode → Nat
  | .voltSe => 0
  | .voltDiff => 1
  | .res2w => 2
  | .res4w => 3
  | .supply => 4
  | .ref => 5

theorem toNat_of_modeOf_some {b : Byte} {m : Mode} (h : modeOf b = some m) : b.toNat = m.code := by
  unfold modeOf at h
  split at h <;> cases h <;> simp_all [Mode.code]

theorem modeOf_eq_none_iff (b : Byte) : modeOf b = none ↔ 5 < b.toNat := by
  unfold modeOf
  split <;> simp_all
  omega

theorem Request.modeV_isResistance_iff (r : Request) :
    r.modeV.isResistance = true ↔ r.mode.toNat = 2 ∨ r.mode.toNat = 3 := by
  cases hm : modeOf r.mode with
  | none =>
    have unknown := (modeOf_eq_none_iff _).1 hm
    simp [Request.modeV, hm, Mode.isResistance]
    omega
  | some m =>
    have code := toNat_of_modeOf_some hm
    cases m <;> simp [Request.modeV, hm, Mode.isResistance, code, Mode.code]

theorem Request.modeV_isInternal_iff (r : Request) :
    r.modeV.isInternal = true ↔ r.mode.toNat = 4 ∨ r.mode.toNat = 5 := by
  cases hm : modeOf r.mode with
  | none =>
    have unknown := (modeOf_eq_none_iff _).1 hm
    simp [Request.modeV, hm, Mode.isInternal]
    omega
  | some m =>
    have code := toNat_of_modeOf_some hm
    cases m <;> simp [Request.modeV, hm, Mode.isInternal, code, Mode.code]

/-! ### The terminal fields in use (R14) -/

theorem allDistinct_iff_nodup (l : List Byte) : allDistinct l = true ↔ l.Nodup := by
  induction l with
  | nil => simp [allDistinct]
  | cons x xs ih => simp [allDistinct, ih]

/-- One terminal, or none, is always distinct. -/
theorem Request.usedTerms_repeat_iff (r : Request) :
    (!allDistinct r.usedTerms) = true ↔
      ((r.mode.toNat = 1 ∨ r.mode.toNat = 2) ∧ r.termA = r.termB)
        ∨ (r.mode.toNat = 3 ∧ ¬ [r.termA, r.termB, r.termC, r.termD].Nodup) := by
  rw [Bool.not_eq_true', ← Bool.not_eq_true, allDistinct_iff_nodup]
  cases hm : modeOf r.mode with
  | none =>
    have unknown := (modeOf_eq_none_iff _).1 hm
    simp [Request.usedTerms, Request.modeV, hm]
    omega
  | some m =>
    have code := toNat_of_modeOf_some hm
    cases m <;> simp [Request.usedTerms, Request.modeV, hm, code, Mode.code]

/-! ### The checks of a MEASURE as a table (R17) -/

/-- Whether a MEASURE fails check `n`, whatever the other checks say. Check 3 asks for the terminals
that MODE uses, and so passes when MODE names no mode. -/
def measureCheckFails (r : Request) : Nat → Bool
  | 2 => (modeOf r.mode).isNone
  | 3 => (modeOf r.mode).isSome && r.usedTerms.any (fun b => 15 < b.toNat)
  | 4 => 4 < r.range.toNat || (r.modeV.isInternal && r.range.toNat != 0)
  | 5 => 3 < r.aperture.toNat
  | 6 => r.samples.toNat == 0 || 16 < r.samples.toNat
  | 7 => r.modeV.isResistance && (2 < r.source.toNat || 2 < r.level.toNat)
  | 8 => 2 < r.converter.toNat
  | 9 => !allDistinct r.usedTerms
  | _ => false

theorem measureCheckFails_number {r : Request} {n : Nat} (h : measureCheckFails r n = true) :
    n ∈ List.range' 2 8 := by
  unfold measureCheckFails at h
  split at h <;> simp at h ⊢

/-- The terminals that MODE uses: A, then B, then C and D. -/
theorem measureCheckFails_terminals (r : Request) :
    measureCheckFails r 3 = true ↔
      (r.mode.toNat ≤ 3 ∧ 15 < r.termA.toNat)
        ∨ (1 ≤ r.mode.toNat ∧ r.mode.toNat ≤ 3 ∧ 15 < r.termB.toNat)
        ∨ (r.mode.toNat = 3 ∧ (15 < r.termC.toNat ∨ 15 < r.termD.toNat)) := by
  cases hm : modeOf r.mode with
  | none =>
    have unknown := (modeOf_eq_none_iff _).1 hm
    simp [measureCheckFails, hm]
    omega
  | some m =>
    have code := toNat_of_modeOf_some hm
    cases m <;> simp [measureCheckFails, Request.usedTerms, Request.modeV, hm, code, Mode.code]

theorem find?_cons_eq_ite {α : Type} (p : α → Bool) (x : α) (xs : List α) :
    (x :: xs).find? p = if p x = true then some x else xs.find? p := by
  cases h : p x <;> simp [h]

/-- The checks are made in the order of their numbers. -/
theorem failingMeasureCheck_eq_find (r : Request) :
    failingMeasureCheck r = (List.range' 2 8).find? (measureCheckFails r) := by
  cases hm : modeOf r.mode <;>
    simp [failingMeasureCheck, List.range', find?_cons_eq_ite, measureCheckFails, hm]

theorem failingMeasureCheck_eq_none_iff (r : Request) :
    failingMeasureCheck r = none ↔ ∀ n, ¬ measureCheckFails r n = true := by
  rw [failingMeasureCheck_eq_find, List.find?_eq_none]
  exact ⟨fun h n hn => h n (measureCheckFails_number hn) hn, fun h n _ => h n⟩

theorem failingMeasureCheck_eq_some_iff (r : Request) (n : Nat) :
    failingMeasureCheck r = some n ↔
      measureCheckFails r n = true ∧ ∀ m, m < n → ¬ measureCheckFails r m = true := by
  simp only [failingMeasureCheck_eq_find, List.find?_range'_eq_some, Bool.not_eq_true',
    ← Bool.not_eq_true]
  constructor
  · rintro ⟨fails, -, least⟩
    exact ⟨fails, fun m lt hm =>
      least m (List.left_le_of_mem_range' (measureCheckFails_number hm)) lt hm⟩
  · rintro ⟨fails, least⟩
    exact ⟨fails, measureCheckFails_number fails, fun m _ lt => least m lt⟩

/-! ### Validation by OPCODE (R17, R140) -/

theorem failingCheck_of_mark {r : Request} (h : r.opcode = 2#8) : failingCheck r = none := by
  simp [failingCheck, opMark, h]

theorem failingCheck_of_other {r : Request} (h1 : r.opcode ≠ 1#8) (h2 : r.opcode ≠ 2#8) :
    failingCheck r = some 1 := by
  simp [failingCheck, opMark, opMeasure, h1, h2]

theorem failingCheck_of_measure {r : Request} (h : r.opcode = 1#8) :
    failingCheck r = failingMeasureCheck r := by
  simp [failingCheck, opMark, opMeasure, h]

theorem failingTemplateCheck_of_not_measure {t : Template} (h : t.request.opcode ≠ 1#8) :
    failingTemplateCheck t = some 1 := by
  simp [failingTemplateCheck, opMeasure, h]

/-- Checks 1 to 9 come before the limit block's. -/
theorem failingTemplateCheck_of_failing {t : Template} {n : Nat} (h : t.request.opcode = 1#8)
    (hn : failingMeasureCheck t.request = some n) : failingTemplateCheck t = some n := by
  simp [failingTemplateCheck, opMeasure, h, hn]

theorem failingTemplateCheck_of_passing {t : Template} (h : t.request.opcode = 1#8)
    (hn : failingMeasureCheck t.request = none) (n : Nat) :
    failingTemplateCheck t = some n ↔ n = 10 ∧ ∃ l, t.limits = some l
      ∧ (l.high < l.low ∨ l.high - l.low < 2 * (l.hysteresis : Int)) := by
  cases hl : t.limits with
  | none => simp [failingTemplateCheck, opMeasure, h, hn, hl]
  | some l => simp [failingTemplateCheck, opMeasure, h, hn, hl, and_comm, eq_comm (a := n)]

theorem failingMeasureCheck_ne_ten (r : Request) : failingMeasureCheck r ≠ some 10 := by
  intro h
  obtain ⟨fails, -⟩ := (failingMeasureCheck_eq_some_iff r 10).1 h
  exact absurd (measureCheckFails_number fails) (by decide)

/-- Settles O21: the table `measureCheckFails` is the statement's, row by row. -/
theorem validationOrder : Obligations.ValidationOrder := by
  unfold Obligations.ValidationOrder
  intro r
  refine ⟨failingCheck_of_mark, failingCheck_of_other, ?_, ?_, ?_⟩
  · rintro t rfl h
    exact failingTemplateCheck_of_not_measure h
  · rintro t rfl h
    rw [failingCheck_of_measure h]
    cases hn : failingMeasureCheck t.request with
    | none =>
      have limits := failingTemplateCheck_of_passing h hn
      exact ⟨fun n ne => by simp [limits, ne], by simp [limits]⟩
    | some n =>
      have ne : n ≠ 10 := fun e => failingMeasureCheck_ne_ten t.request (e ▸ hn)
      rw [failingTemplateCheck_of_failing h hn]
      exact ⟨fun _ _ => Iff.rfl, by simp [ne]⟩
  · intro h fails hf
    have table : ∀ n, fails n ↔ measureCheckFails r n = true := by
      intro n
      rw [hf]
      match n with
      | 0 | 1 => simp [measureCheckFails]
      | 2 => simp [measureCheckFails, modeOf_eq_none_iff]
      | 3 => simp [measureCheckFails_terminals]
      | 4 => simp [measureCheckFails, Request.modeV_isInternal_iff]
      | 5 | 6 | 8 => simp [measureCheckFails]
      | 7 => simp [measureCheckFails, Request.modeV_isResistance_iff]
      | 9 => simp only [measureCheckFails, Request.usedTerms_repeat_iff]; simp
      | m + 10 => simp [measureCheckFails]
    simp only [failingCheck_of_measure h, table]
    exact ⟨failingMeasureCheck_eq_none_iff r, failingMeasureCheck_eq_some_iff r⟩

end Sys2Proof.Machine
end

section
/-! The bypass count of a WAITING slot that sees another slot granted: below 7, at 7 and at 8 (R55). -/

namespace Sys2Proof.Machine

theorem SlotRec.bypassed_of_not_waiting {x : SlotRec} (h : x.state ≠ .waiting) : x.bypassed = x := by
  simp [SlotRec.bypassed, h]

/-- Short of 8 the count advances, and BLOCKING stands. -/
theorem SlotRec.bypassed_of_lt_seven {x : SlotRec} (h : x.state = .waiting) (lt : x.bypass < 7) :
    x.bypassed = { x with bypass := x.bypass + 1 } := by
  have below : x.bypass < bypassLimit := by unfold bypassLimit; omega
  have short : x.bypass + 1 ≠ bypassLimit := by unfold bypassLimit; omega
  simp [SlotRec.bypassed, h, below, short]

/-- The count that reaches 8 sets BLOCKING. -/
theorem SlotRec.bypassed_of_eq_seven {x : SlotRec} (h : x.state = .waiting) (eq : x.bypass = 7) :
    x.bypassed = { x with bypass := 8, blocking := true } := by
  simp [SlotRec.bypassed, h, eq, bypassLimit]

theorem SlotRec.bypassed_of_eight_le {x : SlotRec} (le : 8 ≤ x.bypass) : x.bypassed = x := by
  have full : ¬ x.bypass < bypassLimit := Nat.not_lt.2 le
  simp [SlotRec.bypassed, full]

theorem grantSlot_look_other {i j : Fin 16} {g : Grant} {s : State} {r x : SlotRec} {q : Request}
    (hr : s.slots.look i = some r) (hq : r.request = some q) (ne : j ≠ i)
    (hx : s.slots.look j = some x) : (grantSlot i g s).slots.look j = some x.bypassed := by
  simp [grantSlot_slots hr hq, ne, hx]

/-- Settles O24: a grant leaves every other slot as `SlotRec.bypassed` says. -/
theorem grantAdvancesBypass : Obligations.GrantAdvancesBypass := by
  unfold Obligations.GrantAdvancesBypass
  intro i g r q s hr hq j x ne hx
  rw [grantSlot_look_other hr hq ne hx]
  refine ⟨fun other => ?_, fun waiting lt => ?_, fun waiting eq => ?_, fun _ le => ?_⟩
  · rw [SlotRec.bypassed_of_not_waiting other]
  · rw [SlotRec.bypassed_of_lt_seven waiting lt]
  · rw [SlotRec.bypassed_of_eq_seven waiting eq]
  · rw [SlotRec.bypassed_of_eight_le le]

end Sys2Proof.Machine
end

section
/-! The LIMIT STATE of a classified result as the lines of its table, the band of a limit block that
passes check 10 (R151), and SCAN_STATUS as a command that ends within its own event (R149). -/

namespace Sys2Proof.Machine

/-! ### The thresholds of a limit block (R150, R151) -/

section thresholds

variable (l : LimitBlock) (r : Result)

theorem standsAbove_iff : standsAbove l r = true ↔
    (r.status = .overrange ∧ r.flags.overrangePos = true)
      ∨ (r.status ≠ .overrange ∧ l.high < r.value) := by
  by_cases h : r.status = .overrange <;> simp [standsAbove, h]

theorem standsBelow_iff : standsBelow l r = true ↔
    (r.status = .overrange ∧ r.flags.overrangeNeg = true)
      ∨ (r.status ≠ .overrange ∧ r.value < l.low) := by
  by_cases h : r.status = .overrange <;> simp [standsBelow, h]

theorem backFromAbove_iff : backFromAbove l r = true ↔
    r.status ≠ .overrange ∧ r.value ≤ l.high - (l.hysteresis : Int) := by
  by_cases h : r.status = .overrange <;> simp [backFromAbove, h]

theorem backFromBelow_iff : backFromBelow l r = true ↔
    r.status ≠ .overrange ∧ l.low + (l.hysteresis : Int) ≤ r.value := by
  by_cases h : r.status = .overrange <;> simp [backFromBelow, h]

/-! ### The table of R151, one row of lines per present state -/

theorem classify_of_unknown_or_inside {p : LimitState} (h : p = .unknown ∨ p = .inside) :
    classify l p r =
      if standsAbove l r then .above else if standsBelow l r then .below else .inside := by
  rcases h with rfl | rfl <;> rfl

theorem classify_of_above : classify l .above r =
    if standsBelow l r then .below else if backFromAbove l r then .inside else .above := rfl

theorem classify_of_below : classify l .below r =
    if standsAbove l r then .above else if backFromBelow l r then .inside else .below := rfl

end thresholds

/-- Two lines and a remainder, read as the first line that matches. -/
theorem first_matching_line {α : Type} (a b : Prop) [Decidable a] [Decidable b] (x y z : α) :
    (a → (if a then x else if b then y else z) = x)
      ∧ (¬ a → b → (if a then x else if b then y else z) = y)
      ∧ (¬ a → ¬ b → (if a then x else if b then y else z) = z) :=
  ⟨fun ha => if_pos ha, fun ha hb => (if_neg ha).trans (if_pos hb),
    fun ha hb => (if_neg ha).trans (if_neg hb)⟩

/-- A template passes all its checks only with check 10 passed (R17). -/
theorem limits_of_failingTemplateCheck_none {t : Template} {l : LimitBlock}
    (hl : t.limits = some l) (h : failingTemplateCheck t = none) :
    l.low ≤ l.high ∧ 2 * (l.hysteresis : Int) ≤ l.high - l.low := by
  have measure : t.request.opcode = 1#8 := by
    by_contra ne
    simp [failingTemplateCheck_of_not_measure ne] at h
  have passing : failingMeasureCheck t.request = none := by
    refine Option.eq_none_iff_forall_ne_some.2 fun n hn => ?_
    simp [failingTemplateCheck_of_failing measure hn] at h
  have check10 := (failingTemplateCheck_of_passing measure passing 10).not.1 (by simp [h])
  simpa [hl] using check10

/-- Settles O34: each present state's lines in their order, and check 10 for the band. -/
theorem limitClassification : Obligations.LimitClassification := by
  unfold Obligations.LimitClassification
  intro l p r above below backA backB hAbove hBelow hBackA hBackB
  have eAbove := hAbove.trans (standsAbove_iff l r).symm
  have eBelow := hBelow.trans (standsBelow_iff l r).symm
  have eBackA := hBackA.trans (backFromAbove_iff l r).symm
  have eBackB := hBackB.trans (backFromBelow_iff l r).symm
  rw [eAbove, eBelow, eBackA, eBackB]
  refine ⟨fun h => ?_, ?_, ?_, fun t hl ht => ?_⟩
  · rw [classify_of_unknown_or_inside l r h]
    exact first_matching_line ..
  · rintro rfl
    rw [classify_of_above]
    exact first_matching_line ..
  · rintro rfl
    rw [classify_of_below]
    exact first_matching_line ..
  · obtain ⟨-, band⟩ := limits_of_failingTemplateCheck_none hl ht
    omega

/-! ### A command taken by the AX (R181) -/

/-- The state in which the AX enters EXECUTING with a command: HEAD stands past its position. -/
def commandTaken (cid : BitVec 16) (cmd : AdminCmd) (index : Nat) (s : State) : State :=
  { s.setSq 0 { s.sqs.look 0 with head := nextIndex index (s.sqs.look 0).size } with
    ax := .executing { position := index, commandId := cid, cmd := cmd, work := .nothing } }

section commandTaken

variable (cid : BitVec 16) (cmd : AdminCmd) (index : Nat) (s : State)

theorem commandTaken_ax : (commandTaken cid cmd index s).ax =
    .executing { position := index, commandId := cid, cmd := cmd, work := .nothing } := rfl

@[simp] theorem commandTaken_sqs : (commandTaken cid cmd index s).sqs =
    s.sqs.put 0 { s.sqs.look 0 with head := nextIndex index (s.sqs.look 0).size } := rfl

@[simp] theorem commandTaken_cqs : (commandTaken cid cmd index s).cqs = s.cqs := rfl

@[simp] theorem commandTaken_slots : (commandTaken cid cmd index s).slots = s.slots := rfl

@[simp] theorem commandTaken_scans : (commandTaken cid cmd index s).scans = s.scans := rfl

@[simp] theorem commandTaken_aside : (commandTaken cid cmd index s).aside = s.aside := rfl

@[simp] theorem commandTaken_arbiterView :
    arbiterView (commandTaken cid cmd index s) = arbiterView s := rfl

variable {index s}

theorem takeCommand_of_mayTake (h : s.mayTake index) (guard : Bool) :
    takeCommand cid cmd guard s = runCommand cmd guard (commandTaken cid cmd index s) := by
  obtain ⟨-, hax, htail, -, -⟩ := h
  simp [takeCommand, hax, htail, commandTaken]

end commandTaken

/-! ### The end of the command in hand (R182, R183) -/

/-- The completion joins the list of an ACTIVE CQ0, which is otherwise as it was. -/
theorem completeWith_cq0 {ctx : AxCtx} {s : State} (hax : s.ax = .executing ctx)
    (hcq : (s.cqs.look 0).state = .active) (status : AdminStatus) (aux : Nat) (value : Int)
    (sc : ScanState) (pass : Nat) :
    (completeWith status aux value sc pass s).cqs.look 0 = { s.cqs.look 0 with
      list := (s.cqs.look 0).list ++ [.admin
        { commandId := ctx.commandId, status := status, aux := aux, value := value,
          scanState := sc, pass := pass }] } := by
  simp [completeWith, hax, joinList, hcq]

theorem completeWith_isPosting {ctx : AxCtx} {s : State} (hax : s.ax = .executing ctx)
    (status : AdminStatus) (aux : Nat) (value : Int) (sc : ScanState) (pass : Nat) :
    (completeWith status aux value sc pass s).ax.isPosting = true := by
  simp [completeWith, hax, Ax.isPosting]

/-! ### From a command's effect to its event -/

/-- An effect that leaves everything aside and the slots leaves a state at work at work. -/
theorem State.atWork.of_frame {s u : State} (h : s.atWork) (ha : u.aside = s.aside)
    (hs : u.slots = s.slots) : u.device = .ready ∨ u.device = .halting ∧ u.heldBack := by
  obtain ⟨-, hw⟩ := h
  rw [aside_device ha]
  exact hw.imp_right fun ⟨hd, hb⟩ => ⟨hd, heldBack_of_slots hb hs⟩

theorem placed_of_eq {s u : State} (hs : u.scans = s.scans) (ht : u.templates = s.templates)
    (h : placed s) : placed u := by
  unfold placed
  rw [hs, ht]
  exact h

/-- What an effect on CQ0 and the AX answers stays answered through the steps of the event. -/
theorem settle_answered {d : AdminDone} {s u : State}
    (hw : u.device = .ready ∨ u.device = .halting ∧ u.heldBack) (h : answered d s u) :
    answered d s (settle u) := by
  obtain ⟨joined, state, posting⟩ := h
  obtain ⟨same, grown, -⟩ := settle_cqsGrow hw 0 (by simp)
  refine ⟨joined.trans grown, ?_, ?_⟩
  · rw [same]
    exact state
  · rw [settle_posting hw posting]
    exact posting

/-- A command that does nothing but end, at the event that takes it, changes SQ0's HEAD, the AX and
CQ0's list alone (R181, R182). -/
theorem completeWith_onlyAnswered {index : Nat} {s : State} (h : s.mayTake index)
    (cid : BitVec 16) (cmd : AdminCmd) (status : AdminStatus) (aux : Nat) (value : Int)
    (sc : ScanState) (pass : Nat) :
    onlyAnswered index
      { commandId := cid, status := status, aux := aux, value := value, scanState := sc,
        pass := pass } s
      (settle (completeWith status aux value sc pass (commandTaken cid cmd index s))) := by
  obtain ⟨work, -, -, hsq, hcq⟩ := h
  have hax := commandTaken_ax cid cmd index s
  have cq0 := completeWith_cq0 hax hcq status aux value sc pass
  have posting := completeWith_isPosting hax status aux value sc pass
  have grow := completeWith_grow status aux value sc pass (commandTaken cid cmd index s)
  generalize hu : completeWith status aux value sc pass (commandTaken cid cmd index s) = u at *
  have ha : u.aside = s.aside := by simp [← hu]
  have hslots : u.slots = s.slots := by simp [← hu]
  have hscans : u.scans = s.scans := by simp [← hu]
  have hsqs : u.sqs =
      s.sqs.put 0 { s.sqs.look 0 with head := nextIndex index (s.sqs.look 0).size } := by
    simp [← hu]
  have hw := work.of_frame ha hslots
  have stand := settle_sqsStand hw
  refine ⟨settle_answered hw ?_, ?_, ?_, ?_, ?_, ?_, ?_, ?_⟩
  · exact ⟨by simp [cq0], by simp [cq0], posting⟩
  · rw [headTaken, stand 0 (by simp) (by simp [hsqs, hsq]), hsqs, Table.look_put_same]
  · rw [settle_aside_work hw, ha]
  · exact slotsStand_trans (slotsStand_of_eq hslots) (settle_slotsStand hw)
  · intro q hq live
    have same : u.sqs.look q = s.sqs.look q := by
      rw [hsqs, Table.look_put_ne _ _ _ _ (by simpa using hq)]
    rw [stand q (by simp) (by rwa [same]), same]
  · exact fun c _ => cqGrows_trans (grow c (by simp)) (settle_cqsGrow hw c (by simp))
  · intro k hk
    rw [← hscans]
    exact settle_scansStand hw k hk
  · exact settle_onlyFilled hw hslots (by simp [← hu])
      fun law => placed_of_eq hscans (aside_templates ha) law.placed

/-! ### SCAN_STATUS (R149) -/

theorem execScanStatus_at_work {index : Nat} {s : State} (h : s.mayTake index) (cid : BitVec 16)
    (scan : Byte) : exec (.scanStatus cid scan) s =
      .next (settle (runScanStatus scan (commandTaken cid (.scanStatus scan) index s))) := by
  have reset : s.heldInReset = false := h.1.1
  calc exec (.scanStatus cid scan) s
      = act (takeCommand cid (.scanStatus scan) true) s := rfl
    _ = .next (settle (takeCommand cid (.scanStatus scan) true s)) := act_work reset
    _ = _ := by rw [takeCommand_of_mayTake cid (.scanStatus scan) h]; rfl

theorem runScanStatus_of_invalid {scan : Byte} (h : 7 < scan.toNat) (s : State) :
    runScanStatus scan s = completeWith .invalidField 1 0 .empty 0 s := by
  simp [runScanStatus, h, complete]

theorem runScanStatus_of_valid {scan : Byte} (h : scan.toNat ≤ 7) {s : State} {sc : Scan}
    (hsc : s.scans.look (eighth scan.toNat) = sc) :
    runScanStatus scan s = completeWith .success sc.overruns
      (if sc.passLimit = 0 then -1 else (sc.remaining : Int)) sc.state sc.passNumber s := by
  simp [runScanStatus, Nat.not_lt.2 h, hsc]

/-- Settles O51: either way SCAN_STATUS does nothing but end. -/
theorem scanStatusReports : Obligations.ScanStatusReports := by
  unfold Obligations.ScanStatusReports
  intro cid scan sc index s take hsc
  refine ⟨_, execScanStatus_at_work take cid scan, fun invalid => ?_, fun valid => ?_⟩
  · rw [runScanStatus_of_invalid invalid]
    exact completeWith_onlyAnswered take ..
  · rw [runScanStatus_of_valid valid (by simpa using hsc)]
    exact completeWith_onlyAnswered take ..

end Sys2Proof.Machine
end

section
/-! Age order and a slot that is freed and filled again within one event (R24, R28). A posting list that
names a FETCHING slot, which the laws of O53 do not exclude, frees that slot when the record is written, and
the slot arbiter fills it with the record it had. -/

namespace Sys2Proof.Machine

-- Parallel elaboration of the one text reserves more memory than the check allows.
set_option Elab.async false

/-- READY: S0 is FETCHING at the head of SQ1 and stands at the front of CQ1's list too, with its record in
write; S1, admitted after it, is in CORRECTING. -/
def listedWhileFetching : State :=
  { State.reset with
    device := .ready
    sqs := State.reset.sqs.put 1
      { state := .active, base := 0, size := 4, head := 0, tail := 1, boundCq := 1, cls := 0, limit := 4,
        seq := 0 }
    cqs := State.reset.cqs.put 1
      { newCq 0 4 true 2 0 with list := [.slot 0], writing := some (Record.zero true) }
    slots := (State.reset.slots.put 0 (some { fetchingRec State.reset 1 with targetCq := 1 })).put 1
      (some { fetchingRec State.reset 2 with state := .correcting })
    age := [0, 1]
    pending := [.recordWriteDone 1] }

theorem listedWhileFetching_ageLaw : AgeLaw listedWhileFetching := ⟨by decide, by decide⟩

theorem listedWhileFetching_ringLaw : RingLaw listedWhileFetching := by
  unfold RingLaw Sq.lawful Cq.lawful
  decide

/-- The write's end puts S0 behind S1 in age order, with the record it had. -/
theorem listedWhileFetching_step :
    ∃ t, step listedWhileFetching = .next t ∧ t.age = [1, 0]
      ∧ t.slots.look 0 = listedWhileFetching.slots.look 0 :=
  ⟨_, rfl, by decide +kernel, by decide +kernel⟩

/-- Refutes O53: a slot that joins the end of age order need not hold another record than before. -/
theorem not_tableLawsKept : ¬ Obligations.TableLawsKept := by
  unfold Obligations.TableLawsKept
  intro h
  obtain ⟨t, ht, hage, hslot⟩ := listedWhileFetching_step
  obtain ⟨-, order⟩ := (h _ t ht).1 listedWhileFetching_ageLaw
  obtain ⟨joined, stay, hsplit, hsub, hnew⟩ := order listedWhileFetching_ringLaw
  have same : (0 : Fin 16) ∉ joined := fun mem => (hnew 0 mem).1 hslot.symm
  -- [1, 0] then stays whole, but S1 does not stand before S0 in the old order
  have none : joined = [] := by
    rw [hage] at hsplit
    rcases List.eq_nil_or_concat joined with rfl | ⟨l, a, rfl⟩
    · rfl
    · have last : a = 0 := by
        have := congrArg List.getLast? hsplit
        simpa using this.symm
      simp [last] at same
  rw [none, List.append_nil, hage] at hsplit
  rw [← hsplit] at hsub
  exact absurd hsub (by decide)

end Sys2Proof.Machine
end

section
/-! A step as a sequence of single changes. `Change` lists the changes that the meanings of the commands
and the steps within an event are made of, each with what holds where it is made; a law is kept by every
step once every change keeps it. -/

namespace Sys2Proof.Machine

-- Parallel elaboration of the one text reserves more memory than the check allows.
set_option Elab.async false

/-! ### What a change may rest on -/

/-- Something is at work: the device state says so, or a slot, a ring, a scan or the AX does. -/
def State.busy (s : State) : Prop := s.device.works = true ∨ ¬ s.empty

/-- A slot record keeps its source, and takes no need set but one of distinct terminals. -/
def SlotRec.turns (r r' : SlotRec) : Prop :=
  (∀ q, r'.fromSq q = r.fromSq q) ∧ (∀ k, r'.fromScan k = r.fromScan k)
    ∧ ∀ ns, r'.needSet = some ns → r.needSet = some ns ∨ ns.distinct

/-- A slot stays FREE, or stays occupied. -/
def slotTurns : Option SlotRec → Option SlotRec → Prop
  | none, none => True
  | some r, some r' => r.turns r'
  | _, _ => False

/-- A scan record keeps its program, its limit and its OUTSTANDING, and stays in its state or becomes
LOADED from RUNNING or STOPPING. -/
def Scan.turns (a b : Scan) : Prop :=
  (b.first = a.first ∧ b.count = a.count ∧ b.period = a.period ∧ b.target = a.target
      ∧ b.limit = a.limit ∧ b.outstanding = a.outstanding)
    ∧ (b.state = a.state ∨ (a.state = .running ∨ a.state = .stopping) ∧ b.state = .loaded)
    ∧ (b.counting = true → b.state = .running ∨ a.counting = true ∧ b.state = a.state)
    ∧ (b.nextTemplate ≤ a.nextTemplate ∨ b.nextTemplate ≤ a.count)
    ∧ (b.passNumber = a.passNumber ∨ b.passNumber ≤ maxCount)
    ∧ (b.overruns = a.overruns ∨ b.overruns ≤ maxCount)

/-- A submission ring keeps its size and limit, and its indices lie within it if they did. -/
def Sq.turns (a b : Sq) : Prop :=
  b.size = a.size ∧ b.limit = a.limit ∧ (b.state = .absent ↔ a.state = .absent)
    ∧ (a.state ≠ .absent → a.head < a.size → a.tail < a.size → b.head < a.size ∧ b.tail < a.size)

/-- The unsignalled count after a record written: 0, or one more and below the threshold (R175). -/
def Cq.counts (d : Cq) (n : Nat) : Prop := n = 0 ∨ n = d.unsignalled + 1 ∧ n < d.threshold

/-- What a scan may be loaded with: nothing at the command itself, or what its DMA read was to bring. -/
def State.mayLoad (s : State) (k : Fin 8) (new : List Template) : Prop :=
  (s.axWork = .nothing ∧ new = []
      ∧ ((s.scans.look k).state = .empty ∨ (s.scans.look k).state = .loaded))
    ∨ ∃ addr, s.axWork = .scanLoadDma k new.length addr

/-- The checks of both converters before start-up. -/
def Check.none : ByConv Check := { ca := .notDue, cb := .notDue }

/-! ### The changes -/

/-- One change of the state within a step. The commit of a calibration write is apart. -/
inductive Change (s : State) : State → Prop
  /-- Fields that no law is about. -/
  | aside (pending : List Instr) (heldInReset : Bool) (faultCode : FaultCode)
      (enable intEnable : Bool) (adminSq adminCq : AdminReg) (rotation : Table (Fin 15) 4)
      (age : List (Fin 16)) (examDue : Bool) (conns : ByConv ConnSet) (freeTick : Nat) :
      Change s
        { s with
          pending := pending, heldInReset := heldInReset, faultCode := faultCode, enable := enable,
          intEnable := intEnable, adminSq := adminSq, adminCq := adminCq, rotation := rotation,
          age := age, examDue := examDue, conns := conns, freeTick := freeTick }
  | intPending (b : Byte) (h : s.intPending = 0 → b = 0) : Change s { s with intPending := b }
  | slots (tbl : Table (Option SlotRec) 16) (h : ∀ i, slotTurns (s.slots.look i) (tbl.look i)) :
      Change s { s with slots := tbl }
  | freeSq (i : Fin 16) (r : SlotRec) (age : List (Fin 16)) (hr : s.slots.look i = some r)
      (ho : ∀ k, r.fromScan k = false) :
      Change s { s.setSlot i none with age := age }
  | freeScan (i : Fin 16) (r : SlotRec) (k : Fin 8) (age : List (Fin 16))
      (hr : s.slots.look i = some r) (ho : ∀ j, r.fromScan j = (k == j))
      (hq : ∀ q, r.fromSq q = false) :
      Change s ({ s.setSlot i none with age := age }.setScan k
        { s.scans.look k with outstanding := (s.scans.look k).outstanding - 1 })
  | fillSq (i : Fin 16) (q : Fin 8) (age : List (Fin 16)) (hi : s.slots.look i = none)
      (he : sqEligible s q = true) (hq : q ≠ 0) :
      Change s { s.setSlot i (some (fetchingRec s q)) with age := age }
  | fillScan (i : Fin 16) (k c : Fin 8) (t : Template) (age : List (Fin 16)) (examDue : Bool)
      (hi : s.slots.look i = none) (he : scanEligible s k = true) (ht : t ∈ s.templates) :
      Change s
        { (s.setSlot i (some (templateRec k (s.scans.look k) c t))).setScan k
            { s.scans.look k with
              nextTemplate := (s.scans.look k).nextTemplate + 1
              outstanding := (s.scans.look k).outstanding + 1 } with
          age := age, examDue := examDue }
  | claim (i : Fin 16) (c : Conv) (r : SlotRec) (hr : s.slots.look i = some r)
      (hfit : ∀ x ∈ r.terms, termFits (s.termClaims.look x.1) x.2 c = true) :
      Change s { s with termClaims := addClaims i c r.terms s.termClaims }
  | unclaim (i : Fin 16) (terms : List (Fin 16 × ClaimKind)) :
      Change s { s with termClaims := dropClaims i terms s.termClaims }
  | sourceOn (x : SourceId) (l : Level) (i : Fin 16) :
      Change s
        { s with sources := s.sources.put x (.on l i), sourceClaims := s.sourceClaims.put x (some i) }
  | sourceOff (x : SourceId) :
      Change s { s with sources := s.sources.put x .off, sourceClaims := s.sourceClaims.put x none }
  | conv (c : Conv) (r : ConvRec) (hs : r.serving = (s.convs.look c).serving)
      (h : r.state = (s.convs.look c).state
        ∨ (s.convs.look c).state ≠ .recovery ∧ r.state ≠ .recovery ∧ r.state ≠ .idle) :
      Change s (s.setConv c r)
  | convCut (c : Conv) (r : ConvRec) (freeTick : Nat) (h : r.state = .recovery)
      (hs : r.serving = .nothing) :
      Change s { s.setConv c r with
        convClaims := s.convClaims.put c .recovery, freeTick := freeTick }
  | convGrant (c : Conv) (i : Fin 16) (r : ConvRec) (h : r.state = .settling)
      (hs : r.serving = .slot i) :
      Change s { s.setConv c r with convClaims := s.convClaims.put c (.slot i) }
  | convFree (c : Conv) (r : ConvRec) (h : r.state = .idle)
      (hs : r.serving = .nothing
        ∨ r.serving = (s.convs.look c).serving ∧ (s.convs.look c).state = .recovery) :
      Change s { s.setConv c r with convClaims := s.convClaims.put c .free }
  | checkStart (c : Conv) (r : ConvRec) (conns : ByConv ConnSet) (hd : s.device = .starting)
      (hc : s.checks.look c = .due) (hi : (s.convs.look c).state = .idle) (h : r.state = .settling)
      (hs : r.serving = .startUp) :
      Change s { s.setConv c r with checks := s.checks.put c .running, conns := conns }
  | checkEnd (c : Conv) (r : ConvRec) (conns : ByConv ConnSet)
      (ho : (s.convs.look c).serving = .startUp) (hr : (s.convs.look c).state ≠ .recovery)
      (h : r.state = .idle) (hs : r.serving = .nothing) :
      Change s { s.setConv c r with checks := s.checks.put c .ended, conns := conns }
  | loadDone (hd : s.device = .starting) (hl : s.loading = true) :
      Change s
        { s with
          loading := false
          shadows := Table.build fun e => (s.cells.look e).loaded e.val
          checks := { ca := .due, cb := .due } }
  | pulsed (w : WriteCtx) (image : CalImage) (hw : s.writeCtx = some w) (hp : w.phase = .pulse) :
      Change s
        { s with
          cells := s.cells.put w.entry { s.cells.look w.entry with image := image }
          writeCtx := some { w with pulses := w.pulses + 1, phase := .verify } }
  | pulse (w : WriteCtx) (hw : s.writeCtx = some w)
      (hp : w.phase = .charge ∨ w.pulses < w.budget) :
      Change s { s with writeCtx := some { w with phase := .pulse } }
  | writeEnd (w : WriteCtx) (x : Shadow) (ax : Ax) (hw : s.writeCtx = some w)
      (hax : ax = s.ax
        ∨ ∃ ctx, s.ax = .executing ctx ∧ ax = .executing { ctx with work := .nothing })
      (hx : x.valid = false ∨ x = { wordA := w.image.wordA, wordB := w.image.wordB,
                                    generation := (s.cells.look w.entry).counter, valid := true }) :
      Change s { s with writeCtx := none, shadows := s.shadows.put w.entry x, ax := ax }
  | writeCut (e : Fin 16) (image : CalImage) (freeTick : Nat) :
      Change s
        { s with
          writeCtx := none
          cells := s.cells.put e { s.cells.look e with image := image }
          freeTick := freeTick }
  | writeDropped : Change s { s with writeCtx := none }
  | templates (ts : List Template)
      (h : ts.map Template.request = s.templates.map Template.request) :
      Change s { s with templates := ts }
  | scans (tbl : Table Scan 8) (h : ∀ k, (s.scans.look k).turns (tbl.look k)) :
      Change s { s with scans := tbl }
  | scanStop (k : Fin 8) (ctx : AxCtx) (hax : s.ax = .executing ctx) (hw : ctx.work = .nothing)
      (hk : (s.scans.look k).state = .running) :
      Change s
        { s.setScan k { s.scans.look k with state := .stopping, counting := false } with
          ax := .executing { ctx with work := .stopping k } }
  | scanStart (k : Fin 8) (sc : Scan) (ctx : AxCtx) (hax : s.ax = .executing ctx)
      (hw : ctx.work = .nothing) (hs : scanHasSlots s k = false)
      (hk : (s.scans.look k).state = .loaded) (state : sc.state = .running)
      (same : sc.first = (s.scans.look k).first ∧ sc.count = (s.scans.look k).count
        ∧ sc.outstanding = (s.scans.look k).outstanding)
      (next : sc.nextTemplate = 0) (target : ∃ c, sc.target = some c ∧ c ≠ 0)
      (period : 1 ≤ sc.period) (pass : sc.passNumber ≤ maxCount) (overruns : sc.overruns ≤ maxCount) :
      Change s (s.setScan k sc)
  | scanLoad (k : Fin 8) (new : List Template) (h : s.mayLoad k new)
      (hd : ∀ t, t ∈ new → t.request.needs.distinct) : Change s (loadScan k new s)
  | join (c : Fin 8) (m : Member) (ha : (s.cqs.look c).state = .active) (hm : m.isAdmin = false)
      (he : m.eventKey = none) :
      Change s (s.setCq c { s.cqs.look c with list := (s.cqs.look c).list ++ [m] })
  | event (kind : EventKind) (object : Nat) (value : Int) (ha : (s.cqs.look 0).state = .active) :
      Change s (s.setCq 0 ((s.cqs.look 0).withEvent kind object value))
  | answer (ctx : AxCtx) (ctx' : AxCtx) (d : AdminDone) (cqs : Table Cq 8)
      (hax : s.ax = .executing ctx)
      (hstop : ∀ k, ctx.work = .stopping k → (s.scans.look k).state ≠ .stopping)
      (hwrite : ctx.work = .calWriting → s.writeCtx = none)
      (hcqs : cqs = s.cqs ∨ (s.cqs.look 0).state = .active
        ∧ cqs = s.cqs.put 0 { s.cqs.look 0 with list := (s.cqs.look 0).list ++ [.admin d] }) :
      Change s { s with cqs := cqs, ax := .posting ctx' }
  | writeBegins (c : Fin 8) (x : Record) (hl : (s.cqs.look c).list ≠ [])
      (ha : (s.cqs.look c).state = .active)
      (hf : nextIndex (s.cqs.look c).tail (s.cqs.look c).size ≠ (s.cqs.look c).head) :
      Change s (s.setCq c { s.cqs.look c with writing := some x })
  | written (c : Fin 8) (m : Member) (rest : List Member) (x : Record) (n : Nat) (timer : Option Nat)
      (b : Byte) (ax : Ax) (hl : (s.cqs.look c).list = m :: rest)
      (hw : (s.cqs.look c).writing = some x) (hn : (s.cqs.look c).counts n)
      (hax : ax = if m.isAdmin then .idle else s.ax) :
      Change s
        { s.setCq c { (s.cqs.look c).written rest with unsignalled := n, timer := timer } with
          intPending := b, ax := ax }
  | expired (c : Fin 8) (b : Byte) (ht : (s.cqs.look c).timer.isSome = true) :
      Change s
        { s.setCq c { s.cqs.look c with unsignalled := 0, timer := none } with intPending := b }
  | release (c : Fin 8) (head : Nat) (ha : (s.cqs.look c).state = .active)
      (hi : inSpan (s.cqs.look c) head = true) :
      Change s (s.setCq c { s.cqs.look c with head := head })
  | cqNew (c : Fin 8) (d : Cq) (hc : c ≠ 0) (hb : s.busy) (hl : d.list = []) (hw : d.writing = none)
      (hd : d.head < d.size ∧ d.tail < d.size ∧ d.unsignalled < d.threshold) : Change s (s.setCq c d)
  | cqGone (c : Fin 8) (hc : c ≠ 0) : Change s (s.setCq c Cq.gone)
  | cqFaulted (c : Fin 8) (hc : c ≠ 0) (hw : (s.cqs.look c).writing.isSome = true) :
      Change s (s.setCq c
        { s.cqs.look c with
          state := .faulted, list := [], writing := none, unsignalled := 0, timer := none })
  | sq (q : Fin 8) (d : Sq) (hb : s.busy) (h : (s.sqs.look q).turns d) : Change s (s.setSq q d)
  | sqNew (q : Fin 8) (d : Sq) (hq : q ≠ 0) (hb : s.busy) (ha : (s.sqs.look q).state = .absent)
      (hs : d.state ≠ .absent) (hd : d.head < d.size ∧ d.tail < d.size) : Change s (s.setSq q d)
  | sqGone (q : Fin 8) (h : s.anySlot (fun r => r.fromSq q) = false) : Change s (s.setSq q Sq.gone)
  | axFetch (index : Nat) (hax : s.ax = .idle) (hd : s.device = .ready) :
      Change s { s with ax := .fetching index }
  | axIdle (index : Nat) (hax : s.ax = .fetching index) : Change s { s with ax := .idle }
  | axTake (index : Nat) (ctx : AxCtx) (hax : s.ax = .fetching index) (hw : ctx.work = .nothing) :
      Change s { s with ax := .executing ctx }
  | axKeep (ctx : AxCtx) (w : AxWork) (hax : s.ax = .executing ctx) (hw : ctx.work = .nothing)
      (hs : ∀ k n addr, w = .scanLoadDma k n addr →
        ((s.scans.look k).state = .empty ∨ (s.scans.look k).state = .loaded)
          ∧ n ≤ freePlaces s + (s.scans.look k).count) :
      Change s { s with ax := .executing { ctx with work := w } }
  | fault (code : FaultCode) (hc : ∀ c, (s.convs.look c).serving = .nothing)
      (hw : s.writeCtx = none) :
      Change s
        { s with
          device := .fault
          faultCode := code
          intPending := 0
          loading := false
          checks := Check.none
          sqs := Vector.replicate 8 Sq.gone
          cqs := Vector.replicate 8 Cq.gone
          slots := Vector.replicate 16 none
          age := []
          termClaims := Vector.replicate 16 .free
          sourceClaims := { ex0 := none, ex1 := none }
          conns := { ca := ConnSet.rest, cb := ConnSet.rest }
          sources := { ex0 := .off, ex1 := .off }
          scans := Table.build fun k => (s.scans.look k).faulted
          ax := .idle }
  | discard (hd : s.device = .halting) (hs : ∀ i, s.slots.look i = none) (hax : s.ax.atRest = true) :
      Change s
        { s with
          sqs := Vector.replicate 8 Sq.gone
          cqs := Vector.replicate 8 Cq.gone
          intPending := 0
          ax := .idle
          scans := Table.build fun k =>
            if (s.scans.look k).state = .running then (s.scans.look k).loadedNow else s.scans.look k
          device := .off }
  | starting (hd : s.device = .off) : Change s { s with device := .starting }
  | loadBegins (hd : s.device = .off) :
      Change s { s with device := .starting, loading := true, checks := Check.none }
  | ready (a b : AdminReg) (rotation : Table (Fin 15) 4) (hd : s.device = .starting)
      (hc : s.checks = { ca := .ended, cb := .ended }) :
      Change s
        { s with
          device := .ready, checks := Check.none, sqs := s.sqs.put 0 (adminSqRing a)
          cqs := s.cqs.put 0 (adminCqRing b), ax := .idle, rotation := rotation }
  | startUpOff (hd : s.device = .starting) (hc : s.checks = { ca := .ended, cb := .ended }) :
      Change s { s with device := .off, checks := Check.none }
  | halting (hd : s.device = .ready) : Change s { s with device := .halting }
  | faultLeft (hd : s.device = .fault) : Change s { s with device := .off }
  | reset (pending : List Instr) (heldInReset : Bool) (adminSq adminCq : AdminReg) (freeTick : Nat) :
      Change s
        { State.reset with
          pending := pending, heldInReset := heldInReset, adminSq := adminSq, adminCq := adminCq,
          cells := s.cells, freeTick := freeTick }

/-- The commit of a calibration write (R127): the checks of R125 have passed. -/
inductive Commit (s : State) : State → Prop
  | commit (e : Fin 16) (budget : Nat) (a b : Word) (ctx : AxCtx) (hax : s.ax = .executing ctx)
      (hw : ctx.work = .nothing) (hc : (s.cells.look e).counter < wornCount)
      (ha : wordAInRange e.val a = true) (hb : wordBInRange e.val b = true) (hp : 0 < budget) :
      Commit s
        { s with
          cells := s.cells.put e { s.cells.look e with counter := (s.cells.look e).counter + 1 }
          writeCtx := some
            { entry := e, image := imageOf a b, budget := budget, pulses := 0, phase := .charge }
          ax := .executing { ctx with work := .calWriting } }

/-- Any number of changes. -/
abbrev Changes : State → State → Prop := Relation.ReflTransGen Change

theorem Changes.keep {P : State → Prop} (h : ∀ s t, Change s t → P s → P t) {s t : State}
    (c : Changes s t) (hs : P s) : P t := by
  induction c with
  | refl => exact hs
  | tail _ last ih => exact h _ _ last ih

/-- What a whole step can do: changes, and at most one commit among them. -/
def stepChanges (s t : State) : Prop :=
  Changes s t ∨ ∃ u v, Changes s u ∧ Commit u v ∧ Changes v t

theorem stepChanges.keep {P : State → Prop} (h : ∀ s t, Change s t → P s → P t)
    (hc : ∀ s t, Commit s t → P s → P t) {s t : State} (c : stepChanges s t) (hs : P s) : P t := by
  rcases c with c | ⟨u, v, c1, c2, c3⟩
  · exact c.keep h hs
  · exact c3.keep h (hc _ _ c2 (c1.keep h hs))

end Sys2Proof.Machine
end

section
/-! The laws of single holders, of the calibration store and of the terminals, kept by every change. -/

namespace Sys2Proof.Machine

-- Parallel elaboration of the one text reserves more memory than the check allows.
set_option Elab.async false

/-! ### Single holders (R47, R71, R76) -/

/-- The part of `HolderLaw` about one converter. -/
def holdsConv (claim : ConvClaim) (r : ConvRec) : Prop :=
  (claim = .recovery ↔ r.state = .recovery) ∧ (∀ i, claim = .slot i ↔ r.serving = .slot i)
    ∧ ∀ i, claim = .slot i → r.state ≠ .idle

theorem holderLaw_iff {s : State} : HolderLaw s ↔
    (∀ c, holdsConv (s.convClaims.look c) (s.convs.look c))
      ∧ ∀ x, s.sourceClaims.look x = (s.sources.look x).holder := Iff.rfl

/-- The law after one converter and its claim have changed. -/
theorem HolderLaw.put {s : State} (h : HolderLaw s) {c : Conv} {claim : ConvClaim} {r : ConvRec}
    (hc : holdsConv claim r) {t : State} (h1 : t.convs = s.convs.put c r)
    (h2 : t.convClaims = s.convClaims.put c claim) (h3 : t.sourceClaims = s.sourceClaims)
    (h4 : t.sources = s.sources) : HolderLaw t := by
  rw [holderLaw_iff, h1, h2, h3, h4]
  refine ⟨fun d => ?_, h.2⟩
  rw [ByConv.look_put, ByConv.look_put]
  split
  · exact hc
  · exact h.1 d

theorem ByConv.put_look {α : Type} (p : ByConv α) (c : Conv) : p.put c (p.look c) = p := by
  cases c <;> rfl

/-- The law after one source and its claim have changed. -/
theorem HolderLaw.putSource {s : State} (h : HolderLaw s) {x : SourceId} {st : SourceState} {t : State}
    (h1 : t.convs = s.convs) (h2 : t.convClaims = s.convClaims)
    (h3 : t.sourceClaims = s.sourceClaims.put x st.holder) (h4 : t.sources = s.sources.put x st) :
    HolderLaw t := by
  rw [holderLaw_iff, h1, h2, h3, h4]
  refine ⟨h.1, fun y => ?_⟩
  rw [BySource.look_put, BySource.look_put]
  split
  · rfl
  · exact h.2 y

theorem Change.holderLaw {s t : State} (c : Change s t) (h : HolderLaw s) : HolderLaw t := by
  cases c with
  | sourceOn x l i => exact h.putSource (x := x) (st := .on l i) rfl rfl rfl rfl
  | sourceOff x => exact h.putSource (x := x) (st := .off) rfl rfl rfl rfl
  | conv c r hs ho =>
    obtain ⟨recovery, slot, busy⟩ := h.1 c
    refine h.put (c := c) (r := r) (claim := s.convClaims.look c) ⟨?_, ?_, fun i hi => ?_⟩ rfl
      (ByConv.put_look _ _).symm rfl rfl
    · rcases ho with ho | ⟨h1, h2, -⟩
      · rw [ho]; exact recovery
      · exact ⟨fun e => absurd (recovery.1 e) h1, fun e => absurd e h2⟩
    · rw [hs]; exact slot
    · rcases ho with ho | ⟨-, -, h3⟩
      · rw [ho]; exact busy i hi
      · exact h3
  | convCut c r _ hr hs =>
    exact h.put (c := c) (r := r) (claim := .recovery) (by simp [holdsConv, hr, hs]) rfl rfl rfl rfl
  | convGrant c i r hr hs =>
    exact h.put (c := c) (r := r) (claim := .slot i) (by simp [holdsConv, hr, hs]) rfl rfl rfl rfl
  | convFree c r hr hs =>
    refine h.put (c := c) (r := r) (claim := .free) ?_ rfl rfl rfl rfl
    obtain ⟨recovery, slot, -⟩ := h.1 c
    have none : ∀ i, r.serving ≠ .slot i := by
      rcases hs with hs | ⟨hs, hr⟩
      · simp [hs]
      · intro i e
        have := (slot i).2 (hs ▸ e)
        rw [recovery.2 hr] at this
        cases this
    simp [holdsConv, hr, none]
  | checkStart c r _ hd hc hi hr hs =>
    obtain ⟨recovery, slot, busy⟩ := h.1 c
    have free : s.convClaims.look c = .free := by
      cases e : s.convClaims.look c with
      | free => rfl
      | slot i => exact absurd hi (busy i e)
      | recovery => rw [recovery.1 e] at hi; cases hi
    refine h.put (c := c) (r := r) (claim := s.convClaims.look c) ?_ rfl (ByConv.put_look _ _).symm
      rfl rfl
    simp [holdsConv, hr, hs, free]
  | checkEnd c r _ ho hn hr hs =>
    obtain ⟨recovery, slot, -⟩ := h.1 c
    refine h.put (c := c) (r := r) (claim := s.convClaims.look c) ?_ rfl (ByConv.put_look _ _).symm
      rfl rfl
    have none : ∀ i, s.convClaims.look c ≠ .slot i := by
      intro i e
      rw [(slot i).1 e] at ho
      cases ho
    simp [holdsConv, hr, hs, none, recovery, hn]
  | fault _ _ _ => exact ⟨h.1, fun x => by cases x <;> rfl⟩
  | reset _ _ _ _ _ =>
    exact ⟨fun c => by cases c <;> simp [State.reset, ByConv.look, ConvRec.reset],
      fun x => by cases x <;> rfl⟩
  | _ => exact h

theorem Commit.holderLaw {s t : State} (c : Commit s t) (h : HolderLaw s) : HolderLaw t := by
  cases c; exact h

/-! ### The calibration store (R116, R118, R119, R124, R127) -/

/-- The count of each entry's cells. -/
def counters (s : State) (e : Fin 16) : Nat := (s.cells.look e).counter

/-- Only a commit moves a counter (R118, R127). -/
theorem Change.counters {s t : State} (c : Change s t) : counters t = counters s := by
  cases c with
  | pulsed w image _ _ =>
    funext e
    simp only [Machine.counters, Table.look_put]
    split
    · rename_i he; rw [he]
    · rfl
  | writeCut e image _ =>
    funext e'
    simp only [Machine.counters, Table.look_put]
    split
    · rename_i he; rw [he]
    · rfl
  | _ => rfl

theorem Changes.counters {s t : State} (c : Changes s t) : counters t = counters s :=
  c.keep (P := fun u => Machine.counters u = Machine.counters s)
    (fun _ _ h e => h.counters.trans e) rfl

/-- A commit moves the counter of its entry by one (R127). -/
theorem Commit.counters {s t : State} (c : Commit s t) (e : Fin 16) :
    counters s e ≤ counters t e ∧ counters t e ≤ counters s e + 1 := by
  cases c with
  | commit e' _ _ _ _ _ _ _ _ _ _ =>
    simp only [Machine.counters, Table.look_put]
    split
    · rename_i he; subst he; exact ⟨Nat.le_succ _, Nat.le_refl _⟩
    · exact ⟨Nat.le_refl _, Nat.le_succ _⟩

theorem stepChanges.counters {s t : State} (c : stepChanges s t) (e : Fin 16) :
    counters s e ≤ counters t e ∧ counters t e ≤ counters s e + 1 := by
  rcases c with c | ⟨u, v, c1, c2, c3⟩
  · rw [c.counters]
    exact ⟨Nat.le_refl _, Nat.le_succ _⟩
  · rw [← c1.counters, c3.counters]
    exact c2.counters e

/-- What `StoreLaw` says of a write in progress, the counter of its entry apart. -/
def WriteCtx.lawful (w : WriteCtx) : Prop :=
  wordAInRange w.entry.val w.image.wordA = true ∧ wordBInRange w.entry.val w.image.wordB = true
    ∧ w.image.consistent = true ∧ w.pulses ≤ w.budget ∧ (w.phase ≠ .verify → w.pulses < w.budget)

theorem storeLaw_iff {s : State} : StoreLaw s ↔ (∀ e, counters s e ≤ wornCount)
    ∧ (∀ e, (s.shadows.look e).lawful e)
    ∧ ∀ w, s.writeCtx = some w → 1 ≤ counters s w.entry ∧ w.lawful := Iff.rfl

/-- The law after the write context has taken another phase of the same write. -/
theorem StoreLaw.phase {s t : State} (h : StoreLaw s) {w w' : WriteCtx} (hw : s.writeCtx = some w)
    (hc : counters t = counters s) (hs : t.shadows = s.shadows) (ht : t.writeCtx = some w')
    (he : w'.entry = w.entry) (hl : w.lawful → w'.lawful) : StoreLaw t := by
  rw [storeLaw_iff, hc, hs]
  obtain ⟨worn, valid, write⟩ := h
  refine ⟨worn, valid, fun x hx => ?_⟩
  rw [ht] at hx
  cases hx
  obtain ⟨committed, law⟩ := write w hw
  exact ⟨by rw [he]; exact committed, hl law⟩

/-- The law once no write is in progress. -/
theorem StoreLaw.ended {s t : State} (h : StoreLaw s) (hc : counters t = counters s)
    (hs : ∀ e, (t.shadows.look e).lawful e) (ht : t.writeCtx = none) : StoreLaw t := by
  rw [storeLaw_iff, hc, ht]
  exact ⟨h.1, hs, nofun⟩

theorem Shadow.lawful_of_invalid {e : Fin 16} {x : Shadow} (h : x.valid = false) : x.lawful e :=
  fun v => by rw [h] at v; cases v

theorem Cell.loaded_lawful (c : Cell) (e : Fin 16) : (c.loaded e.val).lawful e := by
  intro v
  simp only [Cell.loaded, Bool.and_eq_true, bne_iff_ne] at v ⊢
  obtain ⟨⟨⟨-, count⟩, a⟩, b⟩ := v
  exact ⟨Nat.one_le_iff_ne_zero.2 count, a, b⟩

theorem Change.storeLaw {s t : State} (c : Change s t) (h : StoreLaw s) : StoreLaw t := by
  have hc := c.counters
  cases c with
  | loadDone _ _ =>
    refine ⟨h.1, fun e => ?_, h.2.2⟩
    simp only [Table.look_build]
    exact Cell.loaded_lawful _ e
  | pulsed w image hw hp =>
    refine h.phase hw hc rfl rfl rfl fun ⟨a, b, crc, _, left⟩ => ⟨a, b, crc, ?_, fun n => absurd rfl n⟩
    exact left (by rw [hp]; decide)
  | pulse w hw hp =>
    refine h.phase hw hc rfl rfl rfl fun ⟨a, b, crc, most, left⟩ => ⟨a, b, crc, most, fun _ => ?_⟩
    rcases hp with hp | hp
    · exact left (by rw [hp]; decide)
    · exact hp
  | writeEnd w x _ hw _ hx =>
    refine h.ended hc (fun e => ?_) rfl
    simp only [Table.look_put]
    split
    · rename_i he
      subst he
      rcases hx with hx | rfl
      · exact Shadow.lawful_of_invalid hx
      · obtain ⟨committed, a, b, -⟩ := h.2.2 w hw
        exact fun _ => ⟨committed, a, b⟩
    · exact h.2.1 e
  | writeCut e image _ => exact h.ended hc h.2.1 rfl
  | writeDropped => exact h.ended hc h.2.1 rfl
  | reset _ _ _ _ _ =>
    refine h.ended hc (fun e => ?_) rfl
    simp only [State.reset, Table.look_replicate]
    exact Shadow.lawful_of_invalid rfl
  | _ => exact h

theorem imageOf_consistent (a b : Word) : (imageOf a b).consistent = true := by
  simp [CalImage.consistent, imageOf]

theorem Commit.storeLaw {s t : State} (c : Commit s t) (h : StoreLaw s) : StoreLaw t := by
  cases c with
  | commit e budget a b ctx hax hw hc ha hb hp =>
    refine ⟨fun e' => ?_, h.2.1, fun w hw => ?_⟩
    · simp only [Table.look_put]
      split
      · exact hc
      · exact h.1 e'
    · cases hw
      simp only [Table.look_put_same]
      exact ⟨Nat.le_add_left _ _, ha, hb, imageOf_consistent a b, Nat.zero_le _, fun _ => hp⟩

/-! ### The terminals (R46, R48) -/

/-- A claim that fits leaves a terminal's record lawful (R46, R49). -/
theorem addClaim_lawful {i : Fin 16} {c : Conv} {k : ClaimKind} {t : TermClaim}
    (h : t.lawful = true) (hf : termFits t k c = true) : (addClaim i c k t).lawful = true := by
  cases k with
  | drive => rfl
  | sense =>
    cases t with
    | free => rfl
    | drive j => cases hf
    | sense hs =>
      simp only [termFits, List.all_eq_true, bne_iff_ne] at hf
      match hs, h with
      | [a], _ => simpa [addClaim, TermClaim.lawful] using hf a (by simp)
      | [a, b], h =>
        -- two different converters leave no third
        have ha := hf a (by simp)
        have hb := hf b (by simp)
        have hab : a.2 ≠ b.2 := by simpa [TermClaim.lawful] using h
        cases ea : a.2 <;> cases eb : b.2 <;> cases c <;> simp_all

/-- Claims on distinct terminals, each of which fits, leave every record lawful. -/
theorem addClaims_lawful {i : Fin 16} {c : Conv} {terms : List (Fin 16 × ClaimKind)}
    {t : Table TermClaim 16} (hd : (terms.map Prod.fst).Nodup)
    (hf : ∀ x ∈ terms, termFits (t.look x.1) x.2 c = true) (h : ∀ x, (t.look x).lawful = true)
    (x : Fin 16) : ((addClaims i c terms t).look x).lawful = true := by
  by_cases hx : x ∈ terms.map Prod.fst
  · obtain ⟨⟨x', k⟩, hk, rfl⟩ := List.mem_map.1 hx
    rw [addClaims_mem i c terms t x' k hd hk]
    exact addClaim_lawful (h _) (hf _ hk)
  · rw [addClaims_other i c terms t x hx]
    exact h x

theorem dropClaim_lawful {i : Fin 16} {t : TermClaim} (h : t.lawful = true) :
    (dropClaim i t).lawful = true := by
  cases t with
  | free => rfl
  | drive j =>
    simp only [dropClaim]
    split <;> rfl
  | sense hs =>
    match hs, h with
    | [a], _ =>
      by_cases e : a.1 = i <;> simp [dropClaim, e, TermClaim.lawful]
    | [a, b], h =>
      by_cases e : a.1 = i <;> by_cases e' : b.1 = i <;>
        simp [dropClaim, e, e', TermClaim.lawful]
      simpa [TermClaim.lawful] using h

theorem dropClaims_lawful {i : Fin 16} (terms : List (Fin 16 × ClaimKind)) :
    ∀ {t : Table TermClaim 16}, (∀ x, (t.look x).lawful = true) →
      ∀ x, ((dropClaims i terms t).look x).lawful = true := by
  induction terms with
  | nil => exact fun h => h
  | cons a l ih =>
    intro t h
    rw [dropClaims_cons]
    refine ih fun x => ?_
    rw [Table.look_put]
    split
    · exact dropClaim_lawful (h _)
    · exact h x

/-- The law through a change of the slots. -/
theorem TerminalLaw.slots {s t : State} (h : TerminalLaw s) (h1 : t.termClaims = s.termClaims)
    (h2 : t.templates = s.templates)
    (h3 : ∀ i r ns, t.slots.look i = some r → r.needSet = some ns →
      (∃ r', s.slots.look i = some r' ∧ r'.needSet = some ns) ∨ ns.distinct) : TerminalLaw t := by
  obtain ⟨claims, slots, templates⟩ := h
  refine ⟨by rw [h1]; exact claims, fun i r ns hr hn => ?_, by rw [h2]; exact templates⟩
  rcases h3 i r ns hr hn with ⟨r', hr', hn'⟩ | hd
  · exact slots i r' ns hr' hn'
  · exact hd

theorem slotTurns_some {x : Option SlotRec} {r : SlotRec} (h : slotTurns x (some r)) :
    ∃ r', x = some r' ∧ r'.turns r := by
  cases x with
  | none => exact h.elim
  | some r' => exact ⟨r', rfl, h⟩

/-- A slot of `s` with slot `i` replaced is slot `i` or one of `s`. -/
theorem look_put_some {α : Type} {n : Nat} {tbl : Table (Option α) n} {i j : Fin n} {x : Option α}
    {r : α} (h : (tbl.put i x).look j = some r) : j = i ∧ x = some r ∨ tbl.look j = some r := by
  rw [Table.look_put] at h
  split at h
  · exact .inl ⟨‹_›, h⟩
  · exact .inr h

/-- The templates that a scan keeps in a repacked memory were in memory, or are the new ones. -/
theorem loadScan_templates {k : Fin 8} {new : List Template} {s : State} {t : Template}
    (h : t ∈ (loadScan k new s).templates) : t ∈ new ∨ t ∈ s.templates := by
  simp only [loadScan, repack, State.setScan_templates, List.mem_flatMap] at h
  obtain ⟨j, -, h⟩ := h
  unfold replacedTemplates at h
  split at h
  · exact .inl h
  · exact .inr (List.mem_of_mem_drop (List.mem_of_mem_take h))

theorem Change.terminalLaw {s t : State} (c : Change s t) (h : TerminalLaw s) : TerminalLaw t := by
  cases c with
  | slots tbl ht =>
    refine h.slots rfl rfl fun i r ns hr hn => ?_
    obtain ⟨r', hr', -, -, keeps⟩ := slotTurns_some (hr ▸ ht i)
    exact (keeps ns hn).imp_left fun e => ⟨r', hr', e⟩
  | freeSq i _ _ _ _ =>
    refine h.slots rfl rfl fun j r ns hr hn => .inl ?_
    rcases look_put_some hr with ⟨-, e⟩ | e
    · cases e
    · exact ⟨r, e, hn⟩
  | freeScan i _ k _ _ _ =>
    refine h.slots rfl rfl fun j r ns hr hn => .inl ?_
    rcases look_put_some hr with ⟨-, e⟩ | e
    · cases e
    · exact ⟨r, e, hn⟩
  | fillSq i q _ _ _ _ =>
    refine h.slots rfl rfl fun j r ns hr hn => .inl ?_
    rcases look_put_some hr with ⟨-, e⟩ | e
    · cases e; cases hn
    · exact ⟨r, e, hn⟩
  | fillScan i k c x _ _ _ _ hx =>
    refine h.slots rfl rfl fun j r ns hr hn => ?_
    rcases look_put_some hr with ⟨-, e⟩ | e
    · cases e; cases hn
      exact .inr (h.2.2 x hx)
    · exact .inl ⟨r, e, hn⟩
  | claim i c r hr hfit =>
    refine ⟨fun x => addClaims_lawful ?_ hfit h.1 x, h.2⟩
    unfold SlotRec.terms
    split
    · exact h.2.1 i r _ hr ‹_›
    · exact List.nodup_nil
  | unclaim i terms => exact ⟨dropClaims_lawful terms h.1, h.2⟩
  | templates ts ht =>
    refine ⟨h.1, h.2.1, fun t hm => ?_⟩
    obtain ⟨t', hm', he⟩ : ∃ t', t' ∈ s.templates ∧ t'.request = t.request := by
      have : t.request ∈ s.templates.map Template.request := ht ▸ List.mem_map_of_mem hm
      simpa using this
    rw [← he]
    exact h.2.2 t' hm'
  | scanLoad k new _ hd =>
    refine ⟨h.1, h.2.1, fun t ht => ?_⟩
    rcases loadScan_templates ht with e | e
    · exact hd t e
    · exact h.2.2 t e
  | fault _ _ _ =>
    refine ⟨fun x => ?_, fun i r ns hr => ?_, h.2.2⟩
    · simp [TermClaim.lawful]
    · simp at hr
  | reset _ _ _ _ _ =>
    refine ⟨fun x => ?_, fun i r ns hr => ?_, nofun⟩
    · simp [State.reset, TermClaim.lawful]
    · simp [State.reset] at hr
  | _ => exact h

theorem Commit.terminalLaw {s t : State} (c : Commit s t) (h : TerminalLaw s) : TerminalLaw t := by
  cases c; exact h

end Sys2Proof.Machine
end

section
/-! The laws of template memory and of the slot counts, kept by every change. -/

namespace Sys2Proof.Machine

-- Parallel elaboration of the one text reserves more memory than the check allows.
set_option Elab.async false

/-! ### Template memory and the scan records (R136, R138, R140) -/

theorem Scan.turns.lawful {a b : Scan} {n : Nat} (t : a.turns b) (h : a.lawful n) : b.lawful n := by
  obtain ⟨⟨first, count, period, target, -, -⟩, state, counting, next, pass, overruns⟩ := t
  obtain ⟨places, empty, most, counts, runs, hp, ho⟩ := h
  refine ⟨by rw [first, count]; exact places, ?_, ?_, fun c => ?_, fun r => ?_, by omega, by omega⟩
  · rcases state with state | ⟨state, loaded⟩
    · rw [state, count]; exact empty
    · have : a.count ≠ 0 := fun e => by
        rw [empty.2 e] at state
        rcases state with e | e <;> cases e
      simp [loaded, count, this]
  · rw [count]
    omega
  · rcases counting c with e | ⟨e, same⟩
    · exact e
    · rw [same]; exact counts e
  · rw [target, period]
    rcases state with state | ⟨-, loaded⟩
    · exact runs (state ▸ r)
    · rw [loaded] at r
      rcases r with e | e <;> cases e

/-- The law after a change of scan records that leaves memory and the counts. -/
theorem ScanLaw.scans {s t : State} (h : ScanLaw s) (ht : t.templates.length = s.templates.length)
    (hc : ∀ k, (t.scans.look k).count = (s.scans.look k).count)
    (hk : ∀ k, (t.scans.look k).lawful s.templates.length)
    (hw : ∀ k n addr, t.axWork = .scanLoadDma k n addr →
      ((t.scans.look k).state = .empty ∨ (t.scans.look k).state = .loaded)
        ∧ s.templates.length + n ≤ 128 + (s.scans.look k).count) : ScanLaw t := by
  obtain ⟨sum, most, -⟩ := h
  refine ⟨?_, by omega, by rw [ht]; exact hk, by simpa only [ht, hc] using hw⟩
  rw [ht, sum]
  simp only [hc]

/-- The law after a change of the AX's work that leaves the scans. -/
theorem ScanLaw.work {s t : State} (h : ScanLaw s) (ht : t.templates = s.templates)
    (hc : t.scans = s.scans)
    (hw : ∀ k n addr, t.axWork = .scanLoadDma k n addr →
      ((s.scans.look k).state = .empty ∨ (s.scans.look k).state = .loaded)
        ∧ s.templates.length + n ≤ 128 + (s.scans.look k).count) : ScanLaw t :=
  h.scans (by rw [ht]) (fun k => by rw [hc]) (fun k => by rw [hc]; exact h.2.2.1 k)
    (by rw [hc]; exact hw)

/-- The law after each record has turned, with the AX as it was. -/
theorem ScanLaw.turns {s t : State} (h : ScanLaw s) (ht : t.templates = s.templates)
    (hax : t.ax = s.ax) (hk : ∀ k, (s.scans.look k).turns (t.scans.look k)) : ScanLaw t := by
  refine h.scans (by rw [ht]) (fun k => (hk k).1.2.1) (fun k => (hk k).lawful (h.2.2.1 k)) ?_
  intro k n addr hw
  have hw : s.axWork = .scanLoadDma k n addr := by
    unfold State.axWork at hw ⊢
    rw [← hax]
    exact hw
  obtain ⟨rest, room⟩ := h.2.2.2 k n addr hw
  refine ⟨?_, room⟩
  rcases (hk k).2.1 with e | ⟨-, e⟩
  · rw [e]; exact rest
  · exact .inr e

theorem Scan.turns_refl (a : Scan) : a.turns a :=
  ⟨⟨rfl, rfl, rfl, rfl, rfl, rfl⟩, .inl rfl, fun h => .inr ⟨h, rfl⟩, .inl (Nat.le_refl _), .inl rfl,
    .inl rfl⟩

theorem Scan.faulted_turns {a : Scan} {n : Nat} (h : a.lawful n) : a.faulted.lawful n := by
  obtain ⟨places, empty, most, counts, runs, hp, ho⟩ := h
  unfold Scan.faulted
  split
  · rename_i r
    have : a.count ≠ 0 := fun e => by
      rw [empty.2 e] at r
      rcases r with e | e <;> cases e
    exact ⟨places, by simp [Scan.loadedNow, this], Nat.le_refl _, nofun, nofun, hp, ho⟩
  · exact ⟨places, empty, most, counts, runs, hp, ho⟩

theorem Scan.loadedNow_turns {a : Scan} (h : a.state = .running ∨ a.state = .stopping) :
    a.turns a.loadedNow :=
  ⟨⟨rfl, rfl, rfl, rfl, rfl, rfl⟩, .inr ⟨h, rfl⟩, nofun, .inl (Nat.le_refl _), .inl rfl, .inl rfl⟩

/-- A scan holds as many templates in memory as it counts. -/
theorem scanTemplates_length {s : State} (h : ScanLaw s) (k : Fin 8) :
    (scanTemplates s k).length = (s.scans.look k).count := by
  have := (h.2.2.1 k).1
  simp only [scanTemplates, List.length_take, List.length_drop]
  omega

/-- A sum over the scans with the summand of one replaced. -/
theorem sum_replaced (f : Fin 8 → Nat) (k : Fin 8) (n : Nat) :
    (allEight.map fun j => if j = k then n else f j).sum + f k = (allEight.map f).sum + n := by
  fin_cases k <;> simp [allEight] <;> omega

/-- The summands below one, and that one, are part of the sum. -/
theorem sum_below_le (f : Fin 8 → Nat) (j : Fin 8) :
    ((allEight.filter fun i => i.val < j.val).map f).sum + f j ≤ (allEight.map f).sum := by
  fin_cases j <;> simp [allEight] <;> omega

theorem replacedTemplates_length {s : State} (h : ScanLaw s) (k : Fin 8) (new : List Template)
    (j : Fin 8) : (replacedTemplates s k new j).length
      = if j = k then new.length else (s.scans.look j).count := by
  unfold replacedTemplates
  split
  · rfl
  · exact scanTemplates_length h j

theorem loadScan_length {s : State} (h : ScanLaw s) (k : Fin 8) (new : List Template) :
    (loadScan k new s).templates.length
      = (allEight.map fun j => if j = k then new.length else (s.scans.look j).count).sum := by
  simp [loadScan, repack, List.length_flatMap, replacedTemplates_length h]

/-- The record of a scan after a load. -/
theorem loadScan_look (s : State) (k : Fin 8) (new : List Template) (j : Fin 8) :
    (loadScan k new s).scans.look j
      = if j = k then
          { s.scans.look k with
            state := if new.isEmpty then .empty else .loaded
            first := if new.isEmpty then 0 else repackedFirst s k new k
            count := new.length
            nextTemplate := new.length }
        else { s.scans.look j with
          first := if 0 < (s.scans.look j).count then repackedFirst s k new j
            else (s.scans.look j).first } := by
  simp only [loadScan, repack, State.setScan_scans, Table.look_put, Table.look_build, true_or,
    if_true]
  split
  · rfl
  · rename_i e
    simp [e]

theorem repackedFirst_fits {s : State} (h : ScanLaw s) (k : Fin 8) (new : List Template) (j : Fin 8) :
    repackedFirst s k new j + (if j = k then new.length else (s.scans.look j).count)
      ≤ (loadScan k new s).templates.length := by
  rw [loadScan_length h]
  unfold repackedFirst
  simp only [replacedTemplates_length h]
  exact sum_below_le (fun j => if j = k then new.length else (s.scans.look j).count) j

/-- A load of a scan that neither runs nor stops, with room for the new templates, keeps the law. -/
theorem ScanLaw.load {s : State} (h : ScanLaw s) {k : Fin 8} {new : List Template}
    (hm : s.mayLoad k new) : ScanLaw (loadScan k new s) := by
  have len := loadScan_length h k new
  have replaced := sum_replaced (fun j => (s.scans.look j).count) k new.length
  obtain ⟨sum, most, lawful, waits⟩ := h
  have hs : ((s.scans.look k).state = .empty ∨ (s.scans.look k).state = .loaded)
      ∧ s.templates.length + new.length ≤ 128 + (s.scans.look k).count := by
    rcases hm with ⟨-, rfl, hs⟩ | ⟨addr, hw⟩
    · exact ⟨hs, by simp; omega⟩
    · exact waits k _ addr hw
  obtain ⟨rest, room⟩ := hs
  refine ⟨?_, by omega, fun j => ?_, fun j n addr hw => ?_⟩
  · rw [len]
    congr 1
    refine List.map_congr_left fun j _ => ?_
    rw [loadScan_look]
    split <;> rfl
  · have fits := repackedFirst_fits (s := s) ⟨sum, most, lawful, waits⟩ k new j
    rw [loadScan_look]
    obtain ⟨places, empty, next, counts, runs, hp, ho⟩ := lawful j
    split
    · rename_i e
      subst e
      simp only [if_true] at fits
      have idle : (s.scans.look j).counting ≠ true := fun c => by
        have := counts c
        rw [this] at rest
        rcases rest with e | e <;> cases e
      cases new with
      | nil => exact ⟨nofun, by simp, Nat.le_refl _, fun c => absurd c idle, by simp, hp, ho⟩
      | cons x xs =>
        exact ⟨fun _ => by simpa using fits, by simp, Nat.le_refl _, fun c => absurd c idle, by simp,
          hp, ho⟩
    · rename_i e
      rw [if_neg e] at fits
      refine ⟨fun c => ?_, empty, next, counts, runs, hp, ho⟩
      simp only at c
      simp only [c, if_true]
      exact fits
  · have hw : s.axWork = .scanLoadDma j n addr := hw
    rcases hm with ⟨hn, -⟩ | ⟨addr', hw'⟩
    · rw [hn] at hw; cases hw
    · rw [hw'] at hw
      cases hw
      rw [loadScan_look]
      simp only [if_true]
      constructor
      · split <;> simp
      · omega

theorem axWork_executing {s : State} {ctx : AxCtx} (h : s.ax = .executing ctx) :
    s.axWork = ctx.work := by simp [State.axWork, h]

theorem Change.scanLaw {s t : State} (c : Change s t) (h : ScanLaw s) : ScanLaw t := by
  cases c with
  | freeScan i r k _ _ _ _ =>
    refine h.scans rfl (fun j => ?_) (fun j => ?_) (fun j n addr hw => ?_)
    all_goals simp only [State.setScan_scans, Table.look_put]
    · split
      · rename_i e; rw [e]
      · rfl
    · split
      · rename_i e; subst e; exact h.2.2.1 j
      · exact h.2.2.1 j
    · have := h.2.2.2 j n addr hw
      split
      · rename_i e; subst e; exact this
      · exact this
  | fillScan i k c _ _ _ _ he _ =>
    have he : ((s.scans.look k).state = .running ∨ (s.scans.look k).state = .stopping)
        ∧ (s.scans.look k).nextTemplate < (s.scans.look k).count := by
      simp only [scanEligible, Bool.and_eq_true, Bool.or_eq_true, beq_iff_eq, decide_eq_true_eq] at he
      exact ⟨he.1.1.1.2, he.1.1.2⟩
    refine h.scans rfl (fun j => ?_) (fun j => ?_) (fun j n addr hw => ?_)
    all_goals simp only [State.setScan_scans, Table.look_put]
    · split
      · rename_i e; rw [e]
      · rfl
    · split
      · rename_i e
        subst e
        obtain ⟨places, empty, -, rest⟩ := h.2.2.1 j
        exact ⟨places, empty, he.2, rest⟩
      · exact h.2.2.1 j
    · have := h.2.2.2 j n addr hw
      split
      · rename_i e; subst e; exact this
      · exact this
  | writeEnd w x ax _ hax _ =>
    refine h.work rfl rfl fun k n addr hk => h.2.2.2 k n addr ?_
    rcases hax with rfl | ⟨ctx, -, rfl⟩
    · exact hk
    · cases hk
  | templates ts ht =>
    have len : ts.length = s.templates.length := by simpa using congrArg List.length ht
    exact h.scans len (fun _ => rfl) h.2.2.1 h.2.2.2
  | scans tbl ht => exact h.turns rfl rfl ht
  | scanStop k ctx hax hw hk =>
    refine h.scans rfl (fun j => ?_) (fun j => ?_) nofun
    all_goals simp only [State.setScan_scans, Table.look_put]
    · split
      · rename_i e; rw [e]
      · rfl
    · split
      · rename_i e
        subst e
        obtain ⟨places, empty, next, -, runs, hp, ho⟩ := h.2.2.1 j
        exact ⟨places, by simpa [hk] using empty, next, nofun, fun _ => runs (.inl hk), hp, ho⟩
      · exact h.2.2.1 j
  | scanStart k sc ctx hax hw hs hk state same next target period pass overruns =>
    obtain ⟨first, count, -⟩ := same
    refine h.scans rfl (fun j => ?_) (fun j => ?_) (fun j n addr hw' => ?_)
    all_goals simp only [State.setScan_scans, Table.look_put]
    · split
      · rename_i e; rw [e, count]
      · rfl
    · split
      · rename_i e
        subst e
        obtain ⟨places, empty, -⟩ := h.2.2.1 j
        rw [hk, ← count] at empty
        exact ⟨by rw [first, count]; exact places, by rw [state]; simpa using empty, by omega,
          fun _ => state, fun _ => ⟨target, period⟩, pass, overruns⟩
      · exact h.2.2.1 j
    · exfalso
      have : s.axWork = .scanLoadDma j n addr := hw'
      rw [axWork_executing hax, hw] at this
      cases this
  | scanLoad k new hm _ => exact h.load hm
  | answer ctx ctx' d cqs hax _ _ _ => exact h.work rfl rfl nofun
  | written c m rest x n timer b ax hl hw hn hax =>
    refine h.work rfl rfl fun k n addr hk => ?_
    refine h.2.2.2 k n addr ?_
    unfold State.axWork at hk ⊢
    simp only at hk
    rw [hax] at hk
    split at hk
    · cases hm : m.isAdmin <;> simp only [hm] at * <;> simp_all
    · cases hk
  | axFetch _ _ _ => exact h.work rfl rfl nofun
  | axIdle _ _ => exact h.work rfl rfl nofun
  | axTake _ ctx _ hw =>
    refine h.work rfl rfl fun k n addr hk => ?_
    rw [axWork_executing rfl, hw] at hk
    cases hk
  | axKeep ctx w hax hw hs =>
    refine h.work rfl rfl fun k n addr hk => ?_
    obtain ⟨rest, room⟩ := hs k n addr (by rw [axWork_executing rfl] at hk; exact hk)
    refine ⟨rest, ?_⟩
    obtain ⟨sum, most, -⟩ := h
    unfold freePlaces at room
    omega
  | fault _ _ _ =>
    refine h.scans rfl (fun k => ?_) (fun k => ?_) nofun
    all_goals simp only [Table.look_build]
    · unfold Scan.faulted
      split <;> rfl
    · exact Scan.faulted_turns (h.2.2.1 k)
  | discard _ _ _ =>
    refine h.scans rfl (fun k => ?_) (fun k => ?_) nofun
    all_goals simp only [Table.look_build]
    · split <;> rfl
    · split
      · rename_i e
        exact (Scan.loadedNow_turns (.inl e)).lawful (h.2.2.1 k)
      · exact h.2.2.1 k
  | ready _ _ _ _ _ => exact h.work rfl rfl nofun
  | reset _ _ _ _ _ =>
    refine ⟨by simp [State.reset, allEight, Scan.reset], by simp [State.reset], fun k => ?_, nofun⟩
    simp [State.reset, Scan.reset, Scan.lawful, maxCount]
  | _ => exact h

theorem Commit.scanLaw {s t : State} (c : Commit s t) (h : ScanLaw s) : ScanLaw t := by
  cases c
  exact h.work rfl rfl nofun

/-! ### Slot counts (R23, R138, R144) -/

/-- Counting with one answer changed: `f` and `g` agree off `i`, which the list holds once. -/
theorem countP_changed {α : Type} {f g : α → Bool} {i : α} :
    ∀ {l : List α}, l.Nodup → i ∈ l → (∀ j, j ≠ i → f j = g j) →
      l.countP f + (g i).toNat = l.countP g + (f i).toNat := by
  intro l
  induction l with
  | nil => exact fun _ h => nomatch h
  | cons a l ih =>
    intro hd hi he
    obtain ⟨ha, hd⟩ := List.nodup_cons.1 hd
    simp only [List.countP_cons]
    by_cases e : a = i
    · subst e
      have : l.countP f = l.countP g := List.countP_congr fun j hj => by
        rw [he j (fun e => ha (e ▸ hj))]
      rw [this]
      cases f a <;> cases g a <;> simp
    · have := ih hd ((List.mem_cons.1 hi).resolve_left (Ne.symm e)) he
      rw [he a e]
      omega

theorem allSlots_nodup : allSlots.Nodup := by decide

/-- The count after slot `i` has been replaced. -/
theorem countSlots_put {s t : State} {i : Fin 16} {x : Option SlotRec}
    (h : t.slots = s.slots.put i x) (p : SlotRec → Bool) :
    t.countSlots p + (s.slotMeets p i).toNat = s.countSlots p + (t.slotMeets p i).toNat := by
  refine countP_changed allSlots_nodup (mem_allSlots i) fun j hj => ?_
  simp [State.slotMeets, h, hj]

theorem slotMeets_some {s : State} {i : Fin 16} {r : SlotRec} (h : s.slots.look i = some r)
    (p : SlotRec → Bool) : s.slotMeets p i = p r := by simp [State.slotMeets, h]

theorem slotMeets_none {s : State} {i : Fin 16} (h : s.slots.look i = none)
    (p : SlotRec → Bool) : s.slotMeets p i = false := by simp [State.slotMeets, h]

/-- A FREE slot that is filled counts where its record meets the predicate. -/
theorem countSlots_fill {s t : State} {i : Fin 16} {r : SlotRec} (hi : s.slots.look i = none)
    (h : t.slots = s.slots.put i (some r)) (p : SlotRec → Bool) :
    t.countSlots p = s.countSlots p + (p r).toNat := by
  have := countSlots_put h p
  rw [slotMeets_none hi, slotMeets_some (r := r) (by rw [h]; simp)] at this
  simpa using this

/-- A slot that is freed counts no more. -/
theorem countSlots_free {s t : State} {i : Fin 16} {r : SlotRec} (hi : s.slots.look i = some r)
    (h : t.slots = s.slots.put i none) (p : SlotRec → Bool) :
    t.countSlots p + (p r).toNat = s.countSlots p := by
  have := countSlots_put h p
  rw [slotMeets_some hi, slotMeets_none (by rw [h]; simp)] at this
  simpa using this

theorem countSlots_eq_zero {s : State} {p : SlotRec → Bool} :
    s.countSlots p = 0 ↔ s.anySlot p = false := by
  simp [State.countSlots, State.anySlot, List.countP_eq_zero]

theorem countSlots_of_free {s : State} (h : ∀ i, s.slots.look i = none) (p : SlotRec → Bool) :
    s.countSlots p = 0 := by
  rw [countSlots_eq_zero, anySlot_false]
  intro j x hx
  rw [h j] at hx
  cases hx

/-- The laws with no slot occupied. -/
theorem slotCounts_of_free {t : State} (hs : ∀ i, t.slots.look i = none)
    (hk : ∀ k, (t.scans.look k).outstanding = 0) : SlotCountLaw t ∧ OutstandingLaw t := by
  have z := countSlots_of_free hs
  refine ⟨⟨fun q => ?_, fun q _ => z _, z _, fun k => ?_⟩, fun k => ?_⟩
  · rw [z]; exact Nat.zero_le _
  · rw [z]; exact Nat.zero_le _
  · rw [z]; exact hk k

/-- The laws after a submission ring has been replaced. -/
theorem slotCounts_sq {s : State} (h : SlotCountLaw s) (o : OutstandingLaw s) (q : Fin 8) (d : Sq)
    (hl : s.countSlots (fun r => r.fromSq q) ≤ d.limit)
    (ha : d.state = .absent → s.countSlots (fun r => r.fromSq q) = 0) {t : State}
    (ht : t.sqs = s.sqs.put q d) (hs : t.slots = s.slots) (hc : t.scans = s.scans) :
    SlotCountLaw t ∧ OutstandingLaw t := by
  obtain ⟨limit, absent, zero, scan⟩ := h
  have same : ∀ p, t.countSlots p = s.countSlots p := fun p => by
    have : t.slotMeets p = s.slotMeets p := by funext i; simp [State.slotMeets, hs]
    rw [State.countSlots, this, State.countSlots]
  refine ⟨⟨fun q' => ?_, fun q' => ?_, by rw [same]; exact zero, fun k => by rw [same, hc]; exact scan k⟩,
    fun k => by rw [same, hc]; exact o k⟩
  all_goals rw [same, ht, Table.look_put]
  · split
    · rename_i e; subst e; exact hl
    · exact limit q'
  · split
    · rename_i e; subst e; exact ha
    · exact absent q'

theorem Change.slotCounts {s t : State} (c : Change s t) (h : SlotCountLaw s ∧ OutstandingLaw s) :
    SlotCountLaw t ∧ OutstandingLaw t := by
  obtain ⟨h, o⟩ := h
  obtain ⟨limit, absent, zero, scan⟩ := h
  cases c with
  | slots tbl ht =>
    have same : ∀ p, (∀ r r', r.turns r' → p r' = p r) →
        ({ s with slots := tbl } : State).countSlots p = s.countSlots p := by
      intro p hp
      refine List.countP_congr fun i _ => ?_
      have hi := ht i
      unfold State.slotMeets
      simp only
      rcases hs : s.slots.look i with _ | r <;> rcases ht' : tbl.look i with _ | r' <;>
        simp only [hs, ht', slotTurns] at hi ⊢
      rw [hp r r' hi]
    have sq : ∀ q, _ := fun q => same (fun r => r.fromSq q) fun _ _ ht => ht.1 q
    have sc : ∀ k, _ := fun k => same (fun r => r.fromScan k) fun _ _ ht => ht.2.1 k
    refine ⟨⟨fun q => ?_, fun q => ?_, ?_, fun k => ?_⟩, fun k => ?_⟩
    · rw [sq]; exact limit q
    · rw [sq]; exact absent q
    · rw [sq]; exact zero
    · rw [sc]; exact scan k
    · rw [sc]; exact o k
  | freeSq i r age hr ho =>
    have count := countSlots_free (t := { s.setSlot i none with age := age }) hr rfl
    refine ⟨⟨fun q => ?_, fun q hq => ?_, ?_, fun k => ?_⟩, fun k => ?_⟩
    · have := count (fun r => r.fromSq q); have := limit q; show _ ≤ (s.sqs.look q).limit; omega
    · have := count (fun r => r.fromSq q); have := absent q hq; omega
    · have := count (fun r => r.fromSq 0); omega
    · have := count (fun r => r.fromScan k)
      have := scan k
      show _ ≤ (s.scans.look k).limit
      omega
    · have := count (fun r => r.fromScan k)
      have := o k
      simp only [ho k, Bool.toNat_false] at *
      show (s.scans.look k).outstanding = _
      omega
  | freeScan i r k _ hr ho hq =>
    generalize ht : State.setScan _ _ _ = t
    have count := fun p => countSlots_free (t := t) hr (by rw [← ht]; rfl) p
    have look : ∀ j, (t.scans.look j).limit = (s.scans.look j).limit
        ∧ (t.scans.look j).outstanding = (s.scans.look j).outstanding - (r.fromScan j).toNat := by
      intro j
      rw [← ht]
      simp only [State.setScan_scans, Table.look_put, ho j]
      by_cases e : j = k
      · subst e; simp
      · have : (k == j) = false := by simpa using Ne.symm e
        simp [e, this]
    have sqs : t.sqs = s.sqs := by rw [← ht]; rfl
    refine ⟨⟨fun q => ?_, fun q ha => ?_, ?_, fun j => ?_⟩, fun j => ?_⟩
    · have := count (fun r => r.fromSq q); have := limit q; rw [sqs]; omega
    · have := count (fun r => r.fromSq q); have := absent q (sqs ▸ ha); omega
    · have := count (fun r => r.fromSq 0); omega
    · have := count (fun r => r.fromScan j); have := scan j; have := look j; omega
    · have := count (fun r => r.fromScan j); have := o j; have := look j; omega
  | fillSq i q age hi he hq =>
    have count :=
      countSlots_fill (t := { s.setSlot i (some (fetchingRec s q)) with age := age }) hi rfl
    simp only [sqEligible, Bool.and_eq_true, beq_iff_eq, decide_eq_true_eq] at he
    obtain ⟨⟨⟨⟨⟨⟨-, active⟩, -⟩, -⟩, room⟩, -⟩, -⟩ := he
    have from_sq : ∀ q', ((fetchingRec s q).fromSq q').toNat = if q' = q then 1 else 0 := by
      intro q'
      by_cases e : q' = q
      · subst e; simp [fetchingRec, SlotRec.fromSq]
      · have : (q == q') = false := by simpa using Ne.symm e
        simp [fetchingRec, SlotRec.fromSq, e, this]
    refine ⟨⟨fun q' => ?_, fun q' ha => ?_, ?_, fun k => ?_⟩, fun k => ?_⟩
    · rw [count, from_sq]
      have := limit q'
      show _ ≤ (s.sqs.look q').limit
      split
      · rename_i e; subst e; omega
      · omega
    · rw [count, from_sq, absent q' ha]
      split
      · rename_i e
        subst e
        have ha : (s.sqs.look q').state = .absent := ha
        rw [active] at ha
        cases ha
      · rfl
    · rw [count, from_sq, zero, if_neg (Ne.symm hq)]
    · rw [count]; exact scan k
    · rw [count]; exact o k
  | fillScan i k c x _ _ hi he _ =>
    generalize ht : ({ State.setScan _ _ _ with age := _, examDue := _ } : State) = t
    have count := fun p => countSlots_fill (t := t) (r := templateRec k (s.scans.look k) c x) hi
      (by rw [← ht]; rfl) p
    simp only [scanEligible, Bool.and_eq_true, beq_iff_eq, decide_eq_true_eq] at he
    obtain ⟨⟨-, room⟩, -⟩ := he
    have sqs : t.sqs = s.sqs := by rw [← ht]; rfl
    have from_scan : ∀ j,
        ((templateRec k (s.scans.look k) c x).fromScan j).toNat = if j = k then 1 else 0 := by
      intro j
      by_cases e : j = k
      · subst e; simp [templateRec, SlotRec.fromScan]
      · have : (k == j) = false := by simpa using Ne.symm e
        simp [templateRec, SlotRec.fromScan, e, this]
    have look : ∀ j, (t.scans.look j).limit = (s.scans.look j).limit
        ∧ (t.scans.look j).outstanding = (s.scans.look j).outstanding + if j = k then 1 else 0 := by
      intro j
      rw [← ht]
      simp only [State.setScan_scans, Table.look_put]
      by_cases e : j = k
      · subst e; simp
      · simp [e]
    refine ⟨⟨fun q => ?_, fun q ha => ?_, ?_, fun j => ?_⟩, fun j => ?_⟩
    · rw [count, sqs]; exact limit q
    · rw [count]; exact absent q (sqs ▸ ha)
    · rw [count]; exact zero
    · rw [count, from_scan, (look j).1]
      have := scan j
      split
      · rename_i e; subst e; omega
      · omega
    · rw [count, from_scan, (look j).2, o j]
  | scans tbl ht =>
    have keep := fun k => (ht k).1
    refine ⟨⟨limit, absent, zero, fun k => ?_⟩, fun k => ?_⟩
    · obtain ⟨-, -, -, -, same, -⟩ := keep k
      show _ ≤ (tbl.look k).limit
      rw [same]; exact scan k
    · obtain ⟨-, -, -, -, -, same⟩ := keep k
      show (tbl.look k).outstanding = _
      rw [same]; exact o k
  | scanStop k ctx _ _ _ =>
    refine ⟨⟨limit, absent, zero, fun j => ?_⟩, fun j => ?_⟩
    all_goals simp only [State.setScan_scans, Table.look_put]
    · split
      · rename_i e; subst e; exact scan j
      · exact scan j
    · split
      · rename_i e; subst e; exact o j
      · exact o j
  | scanStart k sc ctx _ _ hs _ _ same _ _ _ _ _ =>
    have none : s.countSlots (fun r => r.fromScan k) = 0 := countSlots_eq_zero.2 hs
    obtain ⟨-, -, out⟩ := same
    refine ⟨⟨limit, absent, zero, fun j => ?_⟩, fun j => ?_⟩
    all_goals simp only [State.setScan_scans, Table.look_put]
    · split
      · rename_i e
        subst e
        show s.countSlots _ ≤ _
        rw [none]; exact Nat.zero_le _
      · exact scan j
    · split
      · rename_i e; subst e; rw [out]; exact o j
      · exact o j
  | scanLoad k new _ _ =>
    refine ⟨⟨limit, absent, zero, fun j => ?_⟩, fun j => ?_⟩
    all_goals rw [loadScan_look]
    · split
      · rename_i e; subst e; exact scan j
      · exact scan j
    · split
      · rename_i e; subst e; exact o j
      · exact o j
  | sq q d _ ht =>
    obtain ⟨-, same, gone, -⟩ := ht
    exact slotCounts_sq ⟨limit, absent, zero, scan⟩ o q d (by rw [same]; exact limit q)
      (fun e => absent q (gone.1 e)) rfl rfl rfl
  | sqNew q d _ _ ha hs _ =>
    exact slotCounts_sq ⟨limit, absent, zero, scan⟩ o q d (by rw [absent q ha]; exact Nat.zero_le _)
      (fun _ => absent q ha) rfl rfl rfl
  | sqGone q hs =>
    have none := countSlots_eq_zero.2 hs
    exact slotCounts_sq ⟨limit, absent, zero, scan⟩ o q Sq.gone (by rw [none]; exact Nat.zero_le _)
      (fun _ => none) rfl rfl rfl
  | fault _ _ _ =>
    refine slotCounts_of_free (fun i => by simp) fun k => ?_
    simp only [Table.look_build, Scan.faulted]
    split <;> rfl
  | discard _ hs _ =>
    refine slotCounts_of_free hs fun k => ?_
    have : (s.scans.look k).outstanding = 0 := by rw [o k]; exact countSlots_of_free hs _
    simp only [Table.look_build]
    split
    · exact this
    · exact this
  | ready a b _ _ _ =>
    exact slotCounts_sq ⟨limit, absent, zero, scan⟩ o 0 (adminSqRing a)
      (by rw [zero]; exact Nat.zero_le _) (fun _ => zero) rfl rfl rfl
  | reset _ _ _ _ _ =>
    exact slotCounts_of_free (fun i => by simp [State.reset])
      (fun k => by simp [State.reset, Scan.reset])
  | _ => exact ⟨⟨limit, absent, zero, scan⟩, o⟩

theorem Commit.slotCounts {s t : State} (c : Commit s t) (h : SlotCountLaw s ∧ OutstandingLaw s) :
    SlotCountLaw t ∧ OutstandingLaw t := by
  cases c; exact h

end Sys2Proof.Machine
end

section
/-! The laws of the rings, of merging, of the device states and of the administrative ring, kept by every
change. -/

namespace Sys2Proof.Machine

-- Parallel elaboration of the one text reserves more memory than the check allows.
set_option Elab.async false

/-! ### Arithmetic on ring indices -/

theorem nextIndex_eq {i size : Nat} (h : i < size) :
    nextIndex i size = if i + 1 = size then 0 else i + 1 := by
  unfold nextIndex
  split
  · rename_i e; rw [e, Nat.mod_self]
  · exact Nat.mod_eq_of_lt (by omega)

theorem nextIndex_lt {i size : Nat} (h : 0 < size) : nextIndex i size < size := Nat.mod_lt _ h

theorem ringDistance_eq {a b size : Nat} (ha : a < size) (hb : b < size) :
    ringDistance a b size = if a ≤ b then b - a else b + size - a := by
  unfold ringDistance
  split
  · rw [show b + size - a = b - a + size by omega, Nat.add_mod_right, Nat.mod_eq_of_lt (by omega)]
  · exact Nat.mod_eq_of_lt (by omega)

/-- A HEAD moved within its span leaves a ring that is not full not full (R165). -/
theorem inSpan_not_full {d : Cq} {head : Nat} (hh : d.head < d.size) (ht : d.tail < d.size)
    (hi : inSpan d head = true) (hf : nextIndex d.tail d.size ≠ d.head) :
    head < d.size ∧ nextIndex d.tail d.size ≠ head := by
  simp only [inSpan, Bool.and_eq_true, decide_eq_true_eq] at hi
  obtain ⟨hl, hd⟩ := hi
  refine ⟨hl, fun e => ?_⟩
  rw [ringDistance_eq hh hl, ringDistance_eq hh ht] at hd
  rw [nextIndex_eq ht] at e hf
  split at e <;> split at hf <;> split at hd <;> split at hd <;> omega

/-! ### The rings (R157, R160, R175) -/

theorem RingLaw.putCq {s t : State} (h : RingLaw s) {c : Fin 8} {d : Cq}
    (h1 : t.cqs = s.cqs.put c d) (h2 : t.sqs = s.sqs) (hd : (s.cqs.look c).lawful → d.lawful) :
    RingLaw t := by
  refine ⟨by rw [h2]; exact h.1, fun c' => ?_⟩
  rw [h1, Table.look_put]
  split
  · exact hd (h.2 c)
  · exact h.2 c'

theorem RingLaw.putSq {s t : State} (h : RingLaw s) {q : Fin 8} {d : Sq}
    (h1 : t.cqs = s.cqs) (h2 : t.sqs = s.sqs.put q d) (hd : (s.sqs.look q).lawful → d.lawful) :
    RingLaw t := by
  refine ⟨fun q' => ?_, by rw [h1]; exact h.2⟩
  rw [h2, Table.look_put]
  split
  · exact hd (h.1 q)
  · exact h.1 q'

/-- A ring of which only the list has grown, or changed while staying nonempty, stays lawful. -/
theorem Cq.lawful.relist {d : Cq} (h : d.lawful) {l : List Member} (hl : d.list ≠ [] → l ≠ []) :
    ({ d with list := l } : Cq).lawful :=
  ⟨h.1, fun w => ⟨(h.2 w).1, hl (h.2 w).2.1, (h.2 w).2.2⟩⟩

theorem Cq.gone_lawful : Cq.gone.lawful := ⟨fun h => absurd rfl h, nofun⟩

theorem Sq.gone_lawful : Sq.gone.lawful := fun h => absurd rfl h

/-- Raising an event changes a descriptor's list alone. -/
theorem withEvent_eq (d : Cq) (kind : EventKind) (object : Nat) (value : Int) :
    d.withEvent kind object value = { d with list := (d.withEvent kind object value).list } := by
  unfold Cq.withEvent
  split <;> rfl

/-- The list with an event raised: merged into a waiting member behind the one in write, or joined. -/
theorem withEvent_list (d : Cq) (kind : EventKind) (object : Nat) (value : Int) :
    (∃ before e after, d.waiting = before ++ .event e :: after ∧ e.kind = kind ∧ e.object = object
        ∧ (d.withEvent kind object value).list = d.inWrite ++ (before
          ++ .event { e with mergeCount := min 255 (e.mergeCount + 1) } :: after))
      ∨ (kind, object) ∉ d.waiting.filterMap Member.eventKey
        ∧ (d.withEvent kind object value).list = d.list
          ++ [.event { kind := kind, object := object, mergeCount := 1, value := value }] := by
  by_cases h : (kind, object) ∈ d.waiting.filterMap Member.eventKey
  · obtain ⟨b, e, a, h1, h2, h3, -, h5⟩ := mergeEvent_some h
    exact .inl ⟨b, e, a, h1, h2, h3, by simp [Cq.withEvent, h5]⟩
  · exact .inr ⟨h, by simp [Cq.withEvent, mergeEvent_none h]⟩

theorem withEvent_nonempty {d : Cq} (kind : EventKind) (object : Nat) (value : Int) :
    (d.withEvent kind object value).list ≠ [] := by
  rcases withEvent_list d kind object value with ⟨b, e, a, -, -, -, h⟩ | ⟨-, h⟩ <;> simp [h]

theorem Change.ringLaw {s t : State} (c : Change s t) (h : RingLaw s) : RingLaw t := by
  cases c with
  | join c m _ _ _ => exact h.putCq rfl rfl (fun l => l.relist (by simp))
  | event kind object value _ =>
    refine h.putCq rfl rfl (fun l => ?_)
    rw [withEvent_eq]
    exact l.relist fun _ => withEvent_nonempty kind object value
  | answer ctx ctx' d cqs _ _ _ hc =>
    rcases hc with rfl | ⟨-, rfl⟩
    · exact h
    · exact h.putCq rfl rfl (fun l => l.relist (by simp))
  | writeBegins c x hl ha hf =>
    exact h.putCq rfl rfl (fun l => ⟨l.1, fun _ => ⟨ha, hl, hf⟩⟩)
  | written c m rest x n timer b ax hl hw hn _ =>
    refine h.putCq rfl rfl (fun l => ⟨fun na => ?_, nofun⟩)
    obtain ⟨hh, ht, hu⟩ := l.1 na
    refine ⟨hh, nextIndex_lt (by omega), ?_⟩
    rcases hn with rfl | ⟨-, hn⟩
    · exact Nat.lt_of_le_of_lt (Nat.zero_le _) hu
    · exact hn
  | expired c b _ =>
    exact h.putCq rfl rfl (fun l =>
      ⟨fun na => ⟨(l.1 na).1, (l.1 na).2.1, Nat.lt_of_le_of_lt (Nat.zero_le _) (l.1 na).2.2⟩, l.2⟩)
  | release c head ha hi =>
    refine h.putCq rfl rfl (fun l => ?_)
    obtain ⟨hh, ht, hu⟩ := l.1 (by rw [ha]; decide)
    have hl : head < (s.cqs.look c).size := by
      simp only [inSpan, Bool.and_eq_true, decide_eq_true_eq] at hi
      exact hi.1
    exact ⟨fun _ => ⟨hl, ht, hu⟩,
      fun w => ⟨ha, (l.2 w).2.1, (inSpan_not_full hh ht hi (l.2 w).2.2).2⟩⟩
  | cqNew c d _ _ _ hw hd => exact h.putCq rfl rfl (fun _ => ⟨fun _ => hd, by simp [hw]⟩)
  | cqGone c _ => exact h.putCq rfl rfl (fun _ => Cq.gone_lawful)
  | cqFaulted c _ hw =>
    refine h.putCq rfl rfl (fun l => ⟨fun _ => ?_, nofun⟩)
    obtain ⟨hh, ht, hu⟩ := l.1 (by rw [(l.2 hw).1]; decide)
    exact ⟨hh, ht, Nat.lt_of_le_of_lt (Nat.zero_le _) hu⟩
  | sq q d _ ht =>
    refine h.putSq rfl rfl (fun l na => ?_)
    obtain ⟨size, -, gone, index⟩ := ht
    have na : (s.sqs.look q).state ≠ .absent := fun e => na (gone.2 e)
    rw [size]
    exact index na (l na).1 (l na).2
  | sqNew q d _ _ _ _ hd => exact h.putSq rfl rfl (fun _ _ => hd)
  | sqGone q _ => exact h.putSq rfl rfl (fun _ => Sq.gone_lawful)
  | ready a b _ _ _ =>
    refine ⟨fun q => ?_, fun c => ?_⟩
    all_goals simp only [Table.look_put]
    · split
      · exact fun _ => ⟨Nat.succ_pos _, Nat.succ_pos _⟩
      · exact h.1 q
    · split
      · exact ⟨fun _ => ⟨Nat.succ_pos _, Nat.succ_pos _, Nat.one_pos⟩, nofun⟩
      · exact h.2 c
  | fault _ _ _ => exact ⟨fun q => by simp [Sq.gone_lawful], fun c => by simp [Cq.gone_lawful]⟩
  | discard _ _ _ => exact ⟨fun q => by simp [Sq.gone_lawful], fun c => by simp [Cq.gone_lawful]⟩
  | reset _ _ _ _ _ =>
    exact ⟨fun q => by simp [State.reset, Sq.gone_lawful],
      fun c => by simp [State.reset, Cq.gone_lawful]⟩
  | _ => exact h

theorem Commit.ringLaw {s t : State} (c : Commit s t) (h : RingLaw s) : RingLaw t := by
  cases c; exact h

/-! ### Merging (R193) -/

/-- A ring whose waiting events are all of different kinds or objects. -/
def Cq.merges (d : Cq) : Prop := (d.waiting.filterMap Member.eventKey).Nodup

/-- The waiting members of a ring whose list gains one at its end are among the old ones and the new. -/
theorem waiting_append (d : Cq) (m : Member) :
    ({ d with list := d.list ++ [m] } : Cq).waiting.Sublist (d.waiting ++ [m]) := by
  unfold Cq.waiting
  simp only
  split
  · cases d.list with
    | nil => exact List.nil_sublist _
    | cons a l => exact List.Sublist.refl _
  · exact List.Sublist.refl _

theorem Cq.merges.append {d : Cq} (h : d.merges) {m : Member}
    (hm : ∀ key, m.eventKey = some key → key ∉ d.waiting.filterMap Member.eventKey) :
    ({ d with list := d.list ++ [m] } : Cq).merges := by
  refine List.Nodup.sublist ((waiting_append d m).filterMap _) ?_
  rw [List.filterMap_append, List.filterMap_cons, List.filterMap_nil]
  split
  · simpa [Cq.merges] using h
  · rename_i key e
    rw [List.nodup_append]
    refine ⟨h, by simp, fun a ha b hb => ?_⟩
    rw [List.mem_singleton] at hb
    subst hb
    exact fun e' => hm _ e (e' ▸ ha)

theorem Cq.merges.withEvent {d : Cq} (h : d.merges) (kind : EventKind) (object : Nat) (value : Int) :
    (d.withEvent kind object value).merges := by
  rw [withEvent_eq]
  rcases withEvent_list d kind object value with ⟨b, e, a, hw, hk, ho, hl⟩ | ⟨hn, hl⟩
  · rw [hl]
    have key : ({ d with list := d.inWrite ++ (b
        ++ .event { e with mergeCount := min 255 (e.mergeCount + 1) } :: a) } : Cq).waiting
        = b ++ .event { e with mergeCount := min 255 (e.mergeCount + 1) } :: a := by
      unfold Cq.waiting Cq.inWrite at *
      split at hw
      · rename_i hs
        cases hd : d.list with
        | nil => rw [hd] at hw; simp at hw
        | cons x xs => simp [hs]
      · rename_i hs
        simp [hs]
    unfold Cq.merges at h ⊢
    rw [key]
    rw [hw] at h
    simpa [List.filterMap_append, List.filterMap_cons, Member.eventKey] using h
  · rw [hl]
    refine h.append fun key e => ?_
    cases e
    exact hn

theorem mergingLaw_iff {s : State} : MergingLaw s ↔ (s.cqs.look 0).merges := Iff.rfl

theorem MergingLaw.putCq {s t : State} (h : MergingLaw s) {c : Fin 8} {d : Cq}
    (h1 : t.cqs = s.cqs.put c d) (hd : c = 0 → (s.cqs.look c).merges → d.merges) : MergingLaw t := by
  rw [mergingLaw_iff, h1, Table.look_put]
  split
  · rename_i e
    subst e
    exact hd rfl h
  · exact h

theorem Cq.merges_nil {d : Cq} (h : d.list = []) : d.merges := by
  have : d.waiting = [] := by unfold Cq.waiting; split <;> simp [h]
  simp [Cq.merges, this]

theorem Change.mergingLaw {s t : State} (c : Change s t) (h : MergingLaw s) : MergingLaw t := by
  cases c with
  | join c m _ _ he =>
    refine h.putCq rfl (fun _ hm => hm.append fun key e => ?_)
    rw [he] at e
    cases e
  | event kind object value _ => exact h.putCq rfl (fun _ hm => hm.withEvent kind object value)
  | answer ctx ctx' d cqs _ _ _ hc =>
    rcases hc with rfl | ⟨-, rfl⟩
    · exact h
    · exact h.putCq rfl (fun _ hm => hm.append nofun)
  | writeBegins c x _ _ _ =>
    refine h.putCq rfl (fun _ hm => ?_)
    refine List.Nodup.sublist (List.Sublist.filterMap _ ?_) hm
    unfold Cq.waiting
    simp only [Option.isSome_some, if_true]
    split
    · exact List.Sublist.refl _
    · exact List.drop_sublist _ _
  | written c m rest x n timer b ax hl hw _ _ =>
    refine h.putCq rfl (fun _ hm => ?_)
    simpa [Cq.merges, Cq.waiting, Cq.written, hl, hw] using hm
  | expired c b _ => exact h.putCq rfl (fun _ hm => hm)
  | release c head _ _ => exact h.putCq rfl (fun _ hm => hm)
  | cqNew c d hc _ _ _ _ => exact h.putCq rfl (fun e => absurd e hc)
  | cqGone c hc => exact h.putCq rfl (fun e => absurd e hc)
  | cqFaulted c hc _ => exact h.putCq rfl (fun e => absurd e hc)
  | ready a b _ _ _ => exact h.putCq rfl (fun _ _ => Cq.merges_nil rfl)
  | fault _ _ _ => exact Cq.merges_nil (by simp [Cq.gone])
  | discard _ _ _ => exact Cq.merges_nil (by simp [Cq.gone])
  | reset _ _ _ _ _ => exact Cq.merges_nil (by simp [State.reset, Cq.gone])
  | _ => exact h

theorem Commit.mergingLaw {s t : State} (c : Commit s t) (h : MergingLaw s) : MergingLaw t := by
  cases c; exact h

/-! ### The device states (chapter 11) -/

theorem DeviceLaw.works {s : State} (h : DeviceLaw s) (hb : s.busy) : s.device.works = true := by
  cases e : s.device.works with
  | true => rfl
  | false =>
    rcases hb with hb | hb
    · rw [hb] at e; cases e
    · exact absurd (h.empty e) hb

/-- In a state at work the law says nothing of the slots, rings, scans and AX. -/
theorem DeviceLaw.at_work {s t : State} (h : DeviceLaw s) (hb : s.busy)
    (h1 : t.device = s.device) (h2 : t.loading = s.loading) (h3 : t.checks = s.checks)
    (h4 : t.convs = s.convs) : DeviceLaw t := by
  refine ⟨fun w => ?_, by rw [h1, h2, h3, h4]; exact h.2⟩
  rw [h1, h.works hb] at w
  cases w

/-- The law after one converter has changed. -/
theorem DeviceLaw.putConv {s t : State} (h : DeviceLaw s) {c : Conv} {r : ConvRec}
    (hr : r.serving ≠ .startUp ∨ r.serving = (s.convs.look c).serving)
    (h0 : t.convs = s.convs.put c r)
    (h1 : t.device = s.device) (h2 : t.loading = s.loading) (h3 : t.checks = s.checks)
    (h4 : t.slots = s.slots) (h5 : t.sqs = s.sqs) (h6 : t.cqs = s.cqs) (h7 : t.scans = s.scans)
    (h8 : t.ax = s.ax) (h9 : t.intPending = s.intPending) : DeviceLaw t := by
  obtain ⟨rest, idle, load, serve⟩ := h
  refine ⟨by rw [h1, h4, h5, h6, h7, h8, h9]; exact rest, by rw [h1, h2, h3]; exact idle,
    by rw [h2, h3]; exact load, fun d hd => ?_⟩
  rw [h0, ByConv.look_put] at hd
  rw [h3]
  split at hd
  · rename_i e
    subst e
    rcases hr with hr | hr
    · exact absurd hd hr
    · exact serve d (hr ▸ hd)
  · exact serve d hd

theorem busy_of_slot {s : State} {i : Fin 16} {r : SlotRec} (h : s.slots.look i = some r) : s.busy :=
  .inr fun e => by rw [e.1 i] at h; cases h

theorem busy_of_cq {s : State} {c : Fin 8} (h : s.cqs.look c ≠ Cq.gone) : s.busy :=
  .inr fun e => h (e.2.2.1 c)

theorem busy_of_ax {s : State} (h : s.ax ≠ .idle) : s.busy := .inr fun e => h e.2.2.2.2

theorem busy_of_executing {s : State} {ctx : AxCtx} (h : s.ax = .executing ctx) : s.busy :=
  busy_of_ax (by rw [h]; nofun)

theorem busy_of_ready {s : State} (h : s.device = .ready) : s.busy := .inl (by rw [h]; rfl)

theorem busy_of_active {s : State} {c : Fin 8} (h : (s.cqs.look c).state = .active) : s.busy :=
  busy_of_cq fun e => by rw [e] at h; cases h

/-- No start-up check is under way: no converter serves one. -/
theorem DeviceLaw.not_serving {s : State} (h : DeviceLaw s)
    (hc : ∀ c, s.checks.look c ≠ .running) (c : Conv) : (s.convs.look c).serving ≠ .startUp :=
  fun e => hc c (h.2.2.2 c e)

theorem Check.none_look (c : Conv) : Check.none.look c = .notDue := by cases c <;> rfl

/-- With both checks ended the load has ended and no converter serves a check. -/
theorem DeviceLaw.ended {s : State} (h : DeviceLaw s) (hc : s.checks = { ca := .ended, cb := .ended }) :
    s.loading = false ∧ ∀ c, (s.convs.look c).serving ≠ .startUp := by
  refine ⟨?_, h.not_serving fun c => ?_⟩
  · cases e : s.loading with
    | false => rfl
    | true => rw [h.2.2.1 e] at hc; cases hc
  · rw [hc]
    cases c <;> nofun

theorem not_stopping_of_axWork {s : State} (h : AdminLaw s) (hw : s.axWork = .nothing) (k : Fin 8) :
    (s.scans.look k).state ≠ .stopping := fun e => by
  have := h.2.2.1 k e
  rw [hw] at this
  cases this

theorem no_writeCtx_of_axWork {s : State} (h : AdminLaw s) (hw : s.axWork ≠ .calWriting) :
    s.writeCtx = none := by
  cases e : s.writeCtx with
  | none => rfl
  | some w => exact absurd (h.2.2.2 (by rw [e]; rfl)) hw

theorem axWork_atRest {s : State} (h : s.ax.atRest = true) : s.axWork = .nothing := by
  unfold State.axWork
  cases e : s.ax with
  | executing ctx => rw [e] at h; cases h
  | idle => rfl
  | fetching _ => rfl
  | posting _ => rfl

/-- A state that is neither RUNNING nor STOPPING. -/
theorem ScanState.at_rest {x : ScanState} (h1 : x ≠ .running) (h2 : x ≠ .stopping) :
    x = .empty ∨ x = .loaded := by
  cases x <;> simp at *

theorem Scan.faulted_rest (a : Scan) : a.faulted.state = .empty ∨ a.faulted.state = .loaded := by
  unfold Scan.faulted
  split
  · exact .inr rfl
  · rename_i h
    exact ScanState.at_rest (fun e => h (.inl e)) (fun e => h (.inr e))

theorem Change.deviceLaw {s t : State} (c : Change s t) (h : DeviceLaw s) (a : AdminLaw s) :
    DeviceLaw t := by
  obtain ⟨rest, idle, load, serve⟩ := id h
  cases c with
  | intPending b hb =>
    refine ⟨fun w => ?_, idle, load, serve⟩
    obtain ⟨h1, h2, h3, h4, h5, h6⟩ := rest w
    exact ⟨h1, h2, h3, h4, h5, hb h6⟩
  | slots tbl ht =>
    refine ⟨fun w => ?_, idle, load, serve⟩
    obtain ⟨h1, h2⟩ := rest w
    refine ⟨fun i => ?_, h2⟩
    have := ht i
    rw [h1 i] at this
    show tbl.look i = none
    cases e : tbl.look i with
    | none => rfl
    | some r => rw [e] at this; exact this.elim
  | freeSq i r _ hr _ => exact h.at_work (busy_of_slot hr) rfl rfl rfl rfl
  | freeScan i r k _ hr _ _ => exact h.at_work (busy_of_slot hr) rfl rfl rfl rfl
  | fillSq i q _ _ he _ =>
    simp only [sqEligible, Bool.and_eq_true, beq_iff_eq] at he
    exact h.at_work (busy_of_ready he.1.1.1.1.1.1) rfl rfl rfl rfl
  | fillScan i k c _ _ _ _ he _ =>
    simp only [scanEligible, Bool.and_eq_true, beq_iff_eq] at he
    exact h.at_work (busy_of_ready he.1.1.1.1) rfl rfl rfl rfl
  | conv c r hs _ => exact h.putConv (.inr hs) rfl rfl rfl rfl rfl rfl rfl rfl rfl rfl
  | convCut c r _ _ hs =>
    exact h.putConv (c := c) (r := r) (.inl (by rw [hs]; nofun)) rfl rfl rfl rfl rfl rfl rfl rfl rfl rfl
  | convGrant c i r _ hs =>
    exact h.putConv (c := c) (r := r) (.inl (by rw [hs]; nofun)) rfl rfl rfl rfl rfl rfl rfl rfl rfl rfl
  | convFree c r _ hs =>
    refine h.putConv (c := c) (r := r) ?_ rfl rfl rfl rfl rfl rfl rfl rfl rfl rfl
    rcases hs with hs | ⟨hs, -⟩
    · exact .inl (by rw [hs]; nofun)
    · exact .inr hs
  | checkStart c r _ hd hc hi hr hs =>
    refine ⟨rest, fun n => absurd hd n, fun l => ?_, fun d hd => ?_⟩
    · rw [load l] at hc
      cases c <;> cases hc
    · simp only [State.setConv_convs, ByConv.look_put] at hd ⊢
      split
      · rfl
      · rename_i e
        rw [if_neg e] at hd
        exact serve d hd
  | checkEnd c r _ ho _ hr hs =>
    have running := serve c ho
    refine ⟨rest, fun n => ?_, fun l => ?_, fun d hd => ?_⟩
    · rw [(idle n).2] at running
      cases c <;> cases running
    · rw [load l] at running
      cases c <;> cases running
    · simp only [State.setConv_convs, ByConv.look_put] at hd ⊢
      split
      · rename_i e
        rw [if_pos e, hs] at hd
        cases hd
      · rename_i e
        rw [if_neg e] at hd
        exact serve d hd
  | loadDone hd hl =>
    refine ⟨rest, fun n => absurd hd n, nofun, fun c hc => ?_⟩
    have := serve c hc
    rw [load hl] at this
    cases c <;> cases this
  | writeEnd w x ax _ hax _ =>
    rcases hax with rfl | ⟨ctx, hs, rfl⟩
    · exact h
    · exact h.at_work (busy_of_executing hs) rfl rfl rfl rfl
  | scans tbl ht =>
    refine ⟨fun w => ?_, idle, load, serve⟩
    obtain ⟨h1, h2, h3, h4, h5⟩ := rest w
    refine ⟨h1, h2, h3, fun k => ?_, h5⟩
    rcases (ht k).2.1 with e | ⟨-, e⟩
    · have := h4 k
      rw [← e] at this
      exact this
    · exact .inr e
  | scanStop k ctx hax _ _ => exact h.at_work (busy_of_executing hax) rfl rfl rfl rfl
  | scanStart k sc ctx hax _ _ _ _ _ _ _ _ _ _ =>
    exact h.at_work (busy_of_executing hax) rfl rfl rfl rfl
  | scanLoad k new _ _ =>
    refine ⟨fun w => ?_, idle, load, serve⟩
    obtain ⟨h1, h2, h3, h4, h5⟩ := rest w
    refine ⟨h1, h2, h3, fun j => ?_, h5⟩
    rw [loadScan_look]
    split
    · cases new <;> simp
    · exact h4 j
  | join c m ha _ _ => exact h.at_work (busy_of_active ha) rfl rfl rfl rfl
  | event kind object value ha => exact h.at_work (busy_of_active ha) rfl rfl rfl rfl
  | answer ctx ctx' d cqs hax _ _ _ => exact h.at_work (busy_of_executing hax) rfl rfl rfl rfl
  | writeBegins c x _ ha _ => exact h.at_work (busy_of_active ha) rfl rfl rfl rfl
  | written c m rest x n timer b ax hl _ _ _ =>
    exact h.at_work (busy_of_cq fun e => by rw [e] at hl; cases hl) rfl rfl rfl rfl
  | expired c b ht =>
    exact h.at_work (busy_of_cq fun e => by rw [e] at ht; cases ht) rfl rfl rfl rfl
  | release c head ha _ => exact h.at_work (busy_of_active ha) rfl rfl rfl rfl
  | cqNew c d _ hb _ _ _ => exact h.at_work hb rfl rfl rfl rfl
  | cqGone c _ =>
    refine ⟨fun w => ?_, idle, load, serve⟩
    obtain ⟨h1, h2, h3, h4⟩ := rest w
    refine ⟨h1, h2, fun d => ?_, h4⟩
    simp only [State.setCq_cqs, Table.look_put]
    split
    · rfl
    · exact h3 d
  | cqFaulted c _ hw =>
    exact h.at_work (busy_of_cq fun e => by rw [e] at hw; cases hw) rfl rfl rfl rfl
  | sq q d hb _ => exact h.at_work hb rfl rfl rfl rfl
  | sqNew q d _ hb _ _ _ => exact h.at_work hb rfl rfl rfl rfl
  | sqGone q _ =>
    refine ⟨fun w => ?_, idle, load, serve⟩
    obtain ⟨h1, h2, h3⟩ := rest w
    refine ⟨h1, fun d => ?_, h3⟩
    simp only [State.setSq_sqs, Table.look_put]
    split
    · rfl
    · exact h2 d
  | axFetch _ _ hd => exact h.at_work (busy_of_ready hd) rfl rfl rfl rfl
  | axIdle _ hax => exact h.at_work (busy_of_ax (by rw [hax]; nofun)) rfl rfl rfl rfl
  | axTake _ _ hax _ => exact h.at_work (busy_of_ax (by rw [hax]; nofun)) rfl rfl rfl rfl
  | axKeep _ _ hax _ _ => exact h.at_work (busy_of_executing hax) rfl rfl rfl rfl
  | fault code hc hw =>
    refine ⟨fun _ => ⟨by simp, by simp, by simp, fun k => ?_, rfl, rfl⟩, fun _ => ⟨rfl, rfl⟩, nofun,
      fun c hs => ?_⟩
    · simp only [Table.look_build]
      exact Scan.faulted_rest _
    · rw [show (s.convs.look c).serving = .nothing from hc c] at hs
      cases hs
  | discard hd hs hax =>
    obtain ⟨i1, i2⟩ := idle (by rw [hd]; nofun)
    refine ⟨fun _ => ⟨hs, by simp, by simp, fun k => ?_, rfl, rfl⟩, fun _ => ⟨i1, i2⟩, load, serve⟩
    have := not_stopping_of_axWork a (axWork_atRest hax) k
    simp only [Table.look_build]
    split
    · exact .inr rfl
    · exact ScanState.at_rest ‹_› this
  | starting hd =>
    exact ⟨fun _ => rest (by rw [hd]; rfl), fun n => absurd rfl n, load, serve⟩
  | loadBegins hd =>
    obtain ⟨i1, i2⟩ := idle (by rw [hd]; nofun)
    refine ⟨fun _ => rest (by rw [hd]; rfl), fun n => absurd rfl n, fun _ => rfl, fun c hc => ?_⟩
    have := serve c hc
    rw [i2] at this
    cases c <;> cases this
  | ready x y _ hd hc =>
    obtain ⟨loaded, none⟩ := h.ended hc
    exact ⟨nofun, fun _ => ⟨loaded, rfl⟩, fun _ => rfl, fun c hs => absurd hs (none c)⟩
  | startUpOff hd hc =>
    obtain ⟨loaded, none⟩ := h.ended hc
    exact ⟨fun _ => rest (by rw [hd]; rfl), fun _ => ⟨loaded, rfl⟩, fun _ => rfl,
      fun c hs => absurd hs (none c)⟩
  | halting hd => exact ⟨nofun, fun _ => idle (by rw [hd]; nofun), load, serve⟩
  | faultLeft hd =>
    exact ⟨fun _ => rest (by rw [hd]; rfl), fun _ => idle (by rw [hd]; nofun), load, serve⟩
  | reset _ _ _ _ _ =>
    refine ⟨fun _ => ?_, fun _ => ⟨rfl, rfl⟩, nofun, fun c hc => ?_⟩
    · simp [State.reset, Scan.reset]
    · cases c <;> cases hc
  | _ => exact h

theorem Commit.deviceLaw {s t : State} (c : Commit s t) (h : DeviceLaw s) : DeviceLaw t := by
  cases c with
  | commit _ _ _ _ _ hax _ _ _ _ _ => exact h.at_work (busy_of_executing hax) rfl rfl rfl rfl

/-! ### The administrative ring (R182) -/

/-- How many completions wait in a ring's list. -/
def Cq.admins (d : Cq) : Nat := d.list.countP Member.isAdmin

/-- The law after a ring has changed that gained no completion. -/
theorem AdminLaw.putCq {s t : State} (h : AdminLaw s) {c : Fin 8} {d : Cq}
    (h1 : t.cqs = s.cqs.put c d) (h2 : t.ax = s.ax) (h3 : t.scans = s.scans)
    (h4 : t.writeCtx = s.writeCtx) (hd : d.admins ≤ (s.cqs.look c).admins) : AdminLaw t := by
  obtain ⟨zero, others, stops, writes⟩ := h
  have look : ∀ c', (t.cqs.look c').admins ≤ (s.cqs.look c').admins := by
    intro c'
    rw [h1, Table.look_put]
    split
    · rename_i e; subst e; exact hd
    · exact Nat.le_refl _
  have work : t.axWork = s.axWork := by simp [State.axWork, h2]
  refine ⟨?_, fun c' hc => ?_, by rw [work, h3]; exact stops, by rw [work, h4]; exact writes⟩
  · rw [h2]
    exact (look 0).trans zero
  · exact Nat.le_zero.1 ((look c').trans (Nat.le_of_eq (others c' hc)))

/-- The law with no list holding a completion and no command in hand. -/
theorem AdminLaw.of_idle {t : State} (hc : ∀ c, (t.cqs.look c).list.countP Member.isAdmin = 0)
    (hs : ∀ k, (t.scans.look k).state ≠ .stopping) (hw : t.writeCtx = none) : AdminLaw t :=
  ⟨by rw [hc 0]; exact Nat.zero_le _, fun c _ => hc c, fun k e => absurd e (hs k),
    by rw [hw]; nofun⟩

/-- The law after a change of the AX that is not POSTING before and whose command keeps nothing. -/
theorem AdminLaw.axTo {s t : State} (h : AdminLaw s) (hp : s.ax.isPosting = false)
    (hw : s.axWork = .nothing) (h1 : t.cqs = s.cqs) (h2 : t.scans = s.scans)
    (h3 : t.writeCtx = s.writeCtx) : AdminLaw t := by
  have stops := not_stopping_of_axWork h hw
  have writes := no_writeCtx_of_axWork h (by rw [hw]; nofun)
  refine AdminLaw.of_idle (fun c => ?_) (by rw [h2]; exact stops) (by rw [h3]; exact writes)
  rw [h1]
  by_cases e : c = 0
  · subst e
    have := h.1
    simp only [hp, Bool.false_eq_true, if_false] at this
    exact Nat.le_zero.1 this
  · exact h.2.1 c e

theorem withEvent_admins (d : Cq) (kind : EventKind) (object : Nat) (value : Int) :
    (d.withEvent kind object value).admins = d.admins := by
  unfold Cq.admins
  rcases withEvent_list d kind object value with ⟨b, e, a, hw, -, -, hl⟩ | ⟨-, hl⟩
  · rw [hl, ← inWrite_append_waiting d, hw]
    simp [List.countP_append, Member.isAdmin]
  · rw [hl]
    simp [List.countP_append, Member.isAdmin]

theorem posting_work {s : State} (h : s.ax.isPosting = true) : s.axWork = .nothing := by
  unfold State.axWork
  cases e : s.ax with
  | executing ctx => rw [e] at h; cases h
  | idle => rfl
  | fetching _ => rfl
  | posting _ => rfl

theorem Change.adminLaw {s t : State} (c : Change s t) (d : DeviceLaw s) (h : AdminLaw s) :
    AdminLaw t := by
  obtain ⟨zero, others, stops, writes⟩ := id h
  cases c with
  | freeScan i r k _ _ _ _ =>
    refine ⟨zero, others, fun j hj => stops j ?_, writes⟩
    simp only [State.setScan_scans, Table.look_put] at hj
    split at hj
    · rename_i e; subst e; exact hj
    · exact hj
  | fillScan i k c _ _ _ _ _ _ =>
    refine ⟨zero, others, fun j hj => stops j ?_, writes⟩
    simp only [State.setScan_scans, Table.look_put] at hj
    split at hj
    · rename_i e; subst e; exact hj
    · exact hj
  | pulsed w _ hw _ => exact ⟨zero, others, stops, fun _ => writes (by rw [hw]; rfl)⟩
  | pulse w hw _ => exact ⟨zero, others, stops, fun _ => writes (by rw [hw]; rfl)⟩
  | writeEnd w x ax hw hax _ =>
    have work := writes (by rw [hw]; rfl)
    refine ⟨?_, others, fun k hk => ?_, nofun⟩
    · rcases hax with rfl | ⟨ctx, hs, rfl⟩
      · exact zero
      · rw [hs] at zero
        exact zero
    · have := stops k hk
      rw [work] at this
      cases this
  | writeCut e _ _ => exact ⟨zero, others, stops, nofun⟩
  | writeDropped => exact ⟨zero, others, stops, nofun⟩
  | scans tbl ht =>
    refine ⟨zero, others, fun j hj => stops j ?_, writes⟩
    rcases (ht j).2.1 with e | ⟨-, e⟩
    · rw [← e]; exact hj
    · have hj : (tbl.look j).state = .stopping := hj
      rw [e] at hj
      cases hj
  | scanStop k ctx hax hw hk =>
    have work := (axWork_executing hax).trans hw
    refine ⟨?_, others, fun j hj => ?_, fun hc => ?_⟩
    · rw [hax] at zero
      exact zero
    · simp only [State.setScan_scans, Table.look_put] at hj
      split at hj
      · rename_i e; subst e; rfl
      · exact absurd hj (not_stopping_of_axWork h work j)
    · have : s.writeCtx.isSome = true := hc
      rw [no_writeCtx_of_axWork h (by rw [work]; nofun)] at this
      cases this
  | scanStart k sc ctx _ _ _ _ state _ _ _ _ _ _ =>
    refine ⟨zero, others, fun j hj => stops j ?_, writes⟩
    simp only [State.setScan_scans, Table.look_put] at hj
    split at hj
    · rw [state] at hj; cases hj
    · exact hj
  | scanLoad k new _ _ =>
    refine ⟨zero, others, fun j hj => stops j ?_, writes⟩
    rw [loadScan_look] at hj
    split at hj
    · cases new <;> simp at hj
    · exact hj
  | join c m _ hm _ =>
    refine h.putCq (c := c) rfl rfl rfl rfl ?_
    simp [Cq.admins, List.countP_append, hm]
  | event kind object value _ =>
    exact h.putCq (c := 0) rfl rfl rfl rfl (Nat.le_of_eq (withEvent_admins _ _ _ _))
  | answer ctx ctx' dn cqs hax hstop hwrite hc =>
    have none : (s.cqs.look 0).list.countP Member.isAdmin = 0 := by
      rw [hax] at zero
      exact Nat.le_zero.1 zero
    have work := axWork_executing hax
    refine ⟨?_, fun c hn => ?_, fun k hk => ?_, fun hs => ?_⟩
    · show (cqs.look 0).list.countP Member.isAdmin ≤ 1
      rcases hc with rfl | ⟨-, rfl⟩
      · omega
      · simp [List.countP_append, none, Member.isAdmin]
    · show (cqs.look c).list.countP Member.isAdmin = 0
      rcases hc with rfl | ⟨-, rfl⟩
      · exact others c hn
      · simpa [hn] using others c hn
    · exact absurd hk (hstop k (by rw [← work]; exact stops k hk))
    · have : s.writeCtx.isSome = true := hs
      rw [hwrite (by rw [← work]; exact writes this)] at this
      cases this
  | writeBegins c x _ _ _ => exact h.putCq (c := c) rfl rfl rfl rfl (Nat.le_refl _)
  | written c m rest x n timer b ax hl _ _ hax =>
    cases hm : m.isAdmin with
    | false =>
      rw [hm] at hax
      refine h.putCq (c := c) rfl hax rfl rfl ?_
      simp [Cq.admins, hl, hm, Cq.written]
    | true =>
      have c0 : c = 0 := by
        by_contra e
        have := others c e
        simp [hl, hm] at this
      subst c0
      have post : s.ax.isPosting = true := by
        by_contra e
        simp [hl, hm, e] at zero
      simp only [hl, post, List.countP_cons, hm, if_true] at zero
      have work := posting_work post
      have stopped := not_stopping_of_axWork h work
      have unwritten := no_writeCtx_of_axWork h (by rw [work]; nofun)
      refine AdminLaw.of_idle (fun c => ?_) stopped unwritten
      simp only [State.setCq_cqs, Table.look_put]
      split
      · simp only [Cq.written]
        omega
      · exact others c ‹_›
  | expired c b _ => exact h.putCq (c := c) rfl rfl rfl rfl (Nat.le_refl _)
  | release c head _ _ => exact h.putCq (c := c) rfl rfl rfl rfl (Nat.le_refl _)
  | cqNew c x _ _ hl _ _ => exact h.putCq (c := c) rfl rfl rfl rfl (by simp [Cq.admins, hl])
  | cqGone c _ => exact h.putCq (c := c) rfl rfl rfl rfl (by simp [Cq.admins, Cq.gone])
  | cqFaulted c _ _ => exact h.putCq (c := c) rfl rfl rfl rfl (by simp [Cq.admins])
  | axFetch _ hax _ =>
    exact h.axTo (by rw [hax]; rfl) (by simp [State.axWork, hax]) rfl rfl rfl
  | axIdle _ hax => exact h.axTo (by rw [hax]; rfl) (by simp [State.axWork, hax]) rfl rfl rfl
  | axTake _ _ hax _ => exact h.axTo (by rw [hax]; rfl) (by simp [State.axWork, hax]) rfl rfl rfl
  | axKeep _ _ hax hw _ =>
    exact h.axTo (by rw [hax]; rfl) (by simp [State.axWork, hax, hw]) rfl rfl rfl
  | fault code _ hw =>
    refine AdminLaw.of_idle (fun c => by simp [Cq.gone]) (fun k => ?_) hw
    simp only [Table.look_build]
    rcases Scan.faulted_rest (s.scans.look k) with e | e <;> rw [e] <;> nofun
  | discard _ _ hax =>
    have work := axWork_atRest hax
    have unwritten := no_writeCtx_of_axWork h (by rw [work]; nofun)
    refine AdminLaw.of_idle (fun c => by simp [Cq.gone]) (fun k => ?_) unwritten
    simp only [Table.look_build]
    split
    · nofun
    · exact not_stopping_of_axWork h work k
  | ready x y _ hd _ =>
    have ax : s.ax = .idle := (d.empty (by rw [hd]; rfl)).2.2.2.2
    have law : AdminLaw { s with cqs := s.cqs.put 0 (adminCqRing y) } :=
      h.putCq (c := 0) rfl rfl rfl rfl (by simp [Cq.admins, adminCqRing])
    refine law.axTo ?_ ?_ rfl rfl rfl
    · show s.ax.isPosting = false
      rw [ax]; rfl
    · show s.axWork = .nothing
      simp [State.axWork, ax]
  | reset _ _ _ _ _ =>
    exact AdminLaw.of_idle (fun c => by simp [State.reset, Cq.gone])
      (fun k => by simp [State.reset, Scan.reset]) rfl
  | _ => exact h

theorem Commit.adminLaw {s t : State} (c : Commit s t) (h : AdminLaw s) : AdminLaw t := by
  obtain ⟨zero, others, stops, writes⟩ := id h
  cases c with
  | commit e _ _ _ ctx hax hw _ _ _ _ =>
    refine ⟨?_, others, fun k hk => ?_, fun _ => rfl⟩
    · rw [hax] at zero
      exact zero
    · exact absurd hk (not_stopping_of_axWork h ((axWork_executing hax).trans hw) k)

end Sys2Proof.Machine
end

section
/-! The shared operations and the steps within an event as sequences of changes. -/

namespace Sys2Proof.Machine

-- Parallel elaboration of the one text reserves more memory than the check allows.
set_option Elab.async false

/-! ### Putting changes together -/

/-- Changes to fields that no law is about. -/
theorem Changes.asideTo {s t : State}
    (h : t = { s with
      pending := t.pending, heldInReset := t.heldInReset, faultCode := t.faultCode,
      enable := t.enable, intEnable := t.intEnable, adminSq := t.adminSq, adminCq := t.adminCq,
      rotation := t.rotation, age := t.age, examDue := t.examDue, conns := t.conns,
      freeTick := t.freeTick }) : Changes s t := by
  rw [h]
  exact .single (.aside ..)

theorem Changes.foldl {α : Type} {f : State → α → State} (h : ∀ s a, Changes s (f s a))
    (l : List α) (s : State) : Changes s (l.foldl f s) := by
  induction l generalizing s with
  | nil => exact .refl
  | cons a l ih => exact (h s a).trans (ih _)

theorem stepChanges.after {s t u : State} (c : Changes s t) (d : stepChanges t u) :
    stepChanges s u := by
  rcases d with d | ⟨v, w, d1, d2, d3⟩
  · exact .inl (c.trans d)
  · exact .inr ⟨v, w, c.trans d1, d2, d3⟩

theorem stepChanges.before {s t u : State} (c : stepChanges s t) (d : Changes t u) :
    stepChanges s u := by
  rcases c with c | ⟨v, w, c1, c2, c3⟩
  · exact .inl (c.trans d)
  · exact .inr ⟨v, w, c1, c2, c3.trans d⟩

/-! ### Slots and lists -/

theorem SlotRec.turns_of_same {r r' : SlotRec} (ho : r'.origin = r.origin)
    (hn : r'.needSet = r.needSet) : r.turns r' := by
  refine ⟨fun q => ?_, fun k => ?_, fun ns h => .inl (by rw [← hn]; exact h)⟩
  · simp [SlotRec.fromSq, ho]
  · simp [SlotRec.fromScan, ho]

theorem SlotRec.turns_refl (r : SlotRec) : r.turns r := turns_of_same rfl rfl

theorem SlotRec.turns_trans {a b c : SlotRec} (h : a.turns b) (k : b.turns c) : a.turns c := by
  obtain ⟨h1, h2, h3⟩ := h
  obtain ⟨k1, k2, k3⟩ := k
  refine ⟨fun q => (k1 q).trans (h1 q), fun q => (k2 q).trans (h2 q), fun ns e => ?_⟩
  rcases k3 ns e with e | e
  · exact h3 ns e
  · exact .inr e

theorem slotTurns_refl (x : Option SlotRec) : slotTurns x x := by
  cases x with
  | none => trivial
  | some r => exact r.turns_refl

theorem setSlot_changes {s : State} {i : Fin 16} {r r' : SlotRec} (hr : s.slots.look i = some r)
    (ht : r.turns r') : Changes s (s.setSlot i (some r')) := by
  refine .single (.slots (s.slots.put i (some r')) fun j => ?_)
  rw [Table.look_put]
  split
  · rename_i e; subst e; rw [hr]; exact ht
  · exact slotTurns_refl _

/-- A record changed in fields that neither its source nor its need set are. -/
theorem setSlot_changes_same {s : State} {i : Fin 16} {r r' : SlotRec}
    (hr : s.slots.look i = some r) (ho : r'.origin = r.origin := by rfl)
    (hn : r'.needSet = r.needSet := by rfl) : Changes s (s.setSlot i (some r')) :=
  setSlot_changes hr (SlotRec.turns_of_same ho hn)

theorem freeSlot_changes (i : Fin 16) (s : State) : Changes s (freeSlot i s) := by
  unfold freeSlot
  split
  · exact .refl
  · rename_i r hr
    dsimp only
    split
    · rename_i q n a ho
      exact .single (.freeSq i r _ hr fun k => by simp [SlotRec.fromScan, ho])
    · rename_i k n p ho
      exact .single (.freeScan i r k _ hr (fun j => by simp [SlotRec.fromScan, ho])
        fun q => by simp [SlotRec.fromSq, ho])

theorem joinList_changes (c : Fin 8) {m : Member} (hm : m.isAdmin = false) (he : m.eventKey = none)
    (s : State) : Changes s (joinList c m s) := by
  unfold joinList
  split
  · exact .single (.join c m ‹_› hm he)
  · exact .refl

theorem handOff_changes (i : Fin 16) (s : State) : Changes s (handOff i s) := by
  unfold handOff
  split
  · exact .refl
  · split
    · exact joinList_changes _ rfl rfl s
    · exact freeSlot_changes i s

theorem postSlot_changes (i : Fin 16) (res : Result) (s : State) : Changes s (postSlot i res s) := by
  unfold postSlot
  split
  · exact .refl
  · rename_i r hr
    exact (setSlot_changes_same hr).trans (handOff_changes i _)

theorem raiseEvent_changes (kind : EventKind) (object : Nat) (value : Int) (s : State) :
    Changes s (raiseEvent kind object value s) := by
  unfold raiseEvent
  split
  · exact .single (.event kind object value ‹_›)
  · exact .refl

theorem discardMembers_changes (ms : List Member) (s : State) : Changes s (discardMembers ms s) :=
  Changes.foldl (fun s m => by cases m <;> first | exact freeSlot_changes _ s | exact .refl) ms s

/-! ### The AX -/

/-- The command in hand ends, with no scan left STOPPING for it and no write left in progress. -/
theorem completeWith_changes (status : AdminStatus) (aux : Nat) (value : Int) (sc : ScanState)
    (pass : Nat) {s : State}
    (hstop : ∀ k, s.axWork = .stopping k → (s.scans.look k).state ≠ .stopping)
    (hwrite : s.axWork = .calWriting → s.writeCtx = none) :
    Changes s (completeWith status aux value sc pass s) := by
  unfold completeWith
  split
  · rename_i ctx hax
    rw [axWork_executing hax] at hstop hwrite
    unfold joinList
    split
    · exact .single (.answer ctx _ _ _ hax hstop hwrite (.inr ⟨‹_›, rfl⟩))
    · exact .single (.answer ctx _ ⟨0, .success, 0, 0, .empty, 0⟩ _ hax hstop hwrite (.inl rfl))
  · exact .refl

/-- The command in hand ends that keeps nothing of a stop or a write. -/
theorem complete_changes (status : AdminStatus) (aux : Nat) (value : Int) {s : State}
    (hstop : ∀ k, s.axWork ≠ .stopping k) (hwrite : s.axWork ≠ .calWriting) :
    Changes s (complete status aux value s) :=
  completeWith_changes _ _ _ _ _ (fun k e => absurd e (hstop k)) (fun e => absurd e hwrite)

theorem keepWork_changes (w : AxWork) {s : State} (hw : s.axWork = .nothing)
    (hs : ∀ k n addr, w = .scanLoadDma k n addr →
      ((s.scans.look k).state = .empty ∨ (s.scans.look k).state = .loaded)
        ∧ n ≤ freePlaces s + (s.scans.look k).count) : Changes s (keepWork w s) := by
  unfold keepWork
  split
  · rename_i ctx hax
    rw [axWork_executing hax] at hw
    exact .single (.axKeep ctx w hax hw hs)
  · exact .refl

/-! ### Releases, cut-offs and aborts -/

theorem cutConverter_changes (c : Conv) (s : State) : Changes s (cutConverter c s) :=
  .single (.convCut c _ _ rfl rfl)

theorem releaseFrontEnd_changes (i : Fin 16) (g : Grant) (terms : List (Fin 16 × ClaimKind))
    (s : State) : Changes s (releaseFrontEnd i g terms s) := by
  unfold releaseFrontEnd
  split
  · exact ((Relation.ReflTransGen.single (.sourceOff _)).tail (.unclaim i terms)).trans
      (Changes.asideTo rfl)
  · exact (Relation.ReflTransGen.single (.unclaim i terms)).trans (Changes.asideTo rfl)

theorem cutGranted_changes {i : Fin 16} {r : SlotRec} {s : State} (hr : s.slots.look i = some r) :
    Changes s (cutGranted i r s) := by
  have sum : Changes s (s.setSlot i (some { r with sum := 0 })) :=
    setSlot_changes_same hr
  unfold cutGranted
  dsimp only
  split
  · exact (sum.trans (cutConverter_changes _ _)).trans (releaseFrontEnd_changes _ _ _ _)
  · exact sum

theorem abortSlot_changes (d : AbortDetail) (i : Fin 16) (s : State) :
    Changes s (abortSlot d i s).1 := by
  unfold abortSlot
  split
  · exact .refl
  · rename_i r hr
    split
    · split
      · exact setSlot_changes_same hr
      · exact .refl
    · exact ((setSlot_changes_same hr).trans (Changes.asideTo rfl)).trans
        (postSlot_changes _ _ _)
    · exact (cutGranted_changes hr).trans (postSlot_changes _ _ _)
    · exact (cutGranted_changes hr).trans (postSlot_changes _ _ _)
    · exact .refl
    · split
      · exact setSlot_changes_same hr
      · exact .refl
    · exact .refl

theorem abortSlots_changes (d : AbortDetail) (p : SlotRec → Bool) (s : State) :
    Changes s (abortSlots d p s).1 := by
  unfold abortSlots
  generalize (0 : Nat) = n
  generalize hl : s.age = l
  clear hl
  induction l generalizing s n with
  | nil => exact .refl
  | cons a l ih =>
    rw [List.foldl_cons]
    dsimp only
    split
    · exact (abortSlot_changes d a s).trans (ih _ _)
    · exact ih s n

/-! ### Scans -/

theorem setScan_changes {s : State} {k : Fin 8} {x : Scan} (h : (s.scans.look k).turns x) :
    Changes s (s.setScan k x) := by
  refine .single (.scans (s.scans.put k x) fun j => ?_)
  rw [Table.look_put]
  split
  · rename_i e; subst e; exact h
  · exact Scan.turns_refl _

theorem joinScanDone_changes (k : Fin 8) (status : ScanDoneStatus) (s : State) :
    Changes s (joinScanDone k status s) := by
  unfold joinScanDone
  dsimp only
  split
  · exact joinList_changes _ rfl rfl s
  · exact .refl

theorem completeStop_changes {k : Fin 8} {s : State} (h : (s.scans.look k).state ≠ .stopping) :
    Changes s (completeStop k s) := by
  unfold completeStop
  split
  · rename_i hw
    refine completeWith_changes _ _ _ _ _ (fun j e => ?_) (fun e => ?_)
    · rw [hw] at e
      cases e
      exact h
    · rw [hw] at e
      cases e
  · exact .refl

theorem orphanSlots_changes (k : Fin 8) (s : State) : Changes s (orphanSlots k s) := by
  refine .single (.slots _ fun i => ?_)
  rw [Table.look_build]
  cases s.slots.look i with
  | none => trivial
  | some r =>
    show r.turns (if r.fromScan k then { r with orphaned := true } else r)
    split
    · exact SlotRec.turns_of_same rfl rfl
    · exact r.turns_refl

theorem loseTarget_changes (c k : Fin 8) (s : State) : Changes s (loseTarget c k s) := by
  unfold loseTarget
  dsimp only
  split
  · rename_i h
    have lost : (s.scans.look k).turns
        { (s.scans.look k).loadedNow with nextTemplate := (s.scans.look k).count } :=
      ⟨⟨rfl, rfl, rfl, rfl, rfl, rfl⟩, .inr ⟨h.1, rfl⟩, nofun, .inr (Nat.le_refl _), .inl rfl,
        .inl rfl⟩
    refine (((setScan_changes lost).trans (orphanSlots_changes k _)).trans
      (raiseEvent_changes _ _ _ _)).trans (completeStop_changes ?_)
    rw [raiseEvent_scans]
    simp [orphanSlots, Scan.loadedNow]
  · exact .refl

/-! ### The write of a calibration entry, cut off; FAULT; STARTING -/

theorem cutWrite_changes (s : State) : Changes s (cutWrite s) := by
  unfold cutWrite
  split
  · exact .refl
  · split
    · exact .single (.writeCut _ _ _)
    · exact .single .writeDropped

theorem cutWrite_writeCtx (s : State) : (cutWrite s).writeCtx = none := by
  unfold cutWrite
  split
  · assumption
  · split <;> rfl

theorem enterFault_changes (code : FaultCode) (s : State) : Changes s (enterFault code s) := by
  have cut := ((cutWrite_changes s).trans (cutConverter_changes .ca _)).trans
    (cutConverter_changes .cb _)
  refine cut.tail (.fault code (fun c => ?_) ?_)
  · cases c <;> simp [cutConverter, ByConv.put, ByConv.look]
  · exact cutWrite_writeCtx s

theorem enterStarting_changes {s : State} (h : s.device = .off) : Changes s (enterStarting s) := by
  unfold enterStarting
  dsimp only
  split
  · exact ((Relation.ReflTransGen.single (Change.starting h)).trans (Changes.asideTo rfl)).trans
      (enterFault_changes _ _)
  · exact (Relation.ReflTransGen.single (Change.loadBegins h)).trans (Changes.asideTo rfl)

theorem Scan.halted_turns (a : Scan) : a.turns a.halted := by
  unfold Scan.halted
  split
  · exact ⟨⟨rfl, rfl, rfl, rfl, rfl, rfl⟩, .inl rfl, nofun, .inr (Nat.le_refl _), .inl rfl, .inl rfl⟩
  · exact a.turns_refl

theorem enterHalting_changes {s : State} (h : s.device = .ready) : Changes s (enterHalting s) := by
  unfold enterHalting
  refine Relation.ReflTransGen.trans ?_ (abortSlots_changes _ _ _)
  refine (Relation.ReflTransGen.single (Change.halting h)).tail (.scans _ fun k => ?_)
  rw [Table.look_build]
  exact Scan.halted_turns _

/-! ### The steps within an event -/

theorem fenceRelease_changes (i : Fin 16) (s : State) : Changes s (fenceRelease i s) := by
  unfold fenceRelease
  split
  · split
    · exact postSlot_changes _ _ _
    · exact .refl
  · exact .refl

theorem passComplete_changes (k : Fin 8) (s : State) : Changes s (passComplete k s) := by
  unfold passComplete
  dsimp only
  split
  · exact .refl
  · split
    · rename_i hs
      split
      · exact (setScan_changes (Scan.loadedNow_turns (.inl hs))).trans (joinScanDone_changes _ _ _)
      · exact .refl
    · rename_i hs
      refine ((setScan_changes (Scan.loadedNow_turns (.inr hs))).trans
        (joinScanDone_changes _ _ _)).trans (completeStop_changes ?_)
      simp [Scan.loadedNow]
    · exact .refl

theorem deleteSqStage_changes (s : State) : Changes s (deleteSqStage s) := by
  unfold deleteSqStage
  split
  · rename_i q n hw
    split
    · rename_i h
      have work : (s.setSq q Sq.gone).axWork = .deleting q n := hw
      exact (Relation.ReflTransGen.single (Change.sqGone q h.2)).trans
        (complete_changes _ _ _ (by simp [work]) (by simp [work]))
    · exact .refl
  · exact .refl

theorem expire_changes (k : Fin 8) (s : State) : Changes s (expire k s) := by
  unfold expire
  dsimp only
  split
  · rename_i h
    obtain ⟨-, running, counting, -⟩ := h
    split
    · exact setScan_changes ⟨⟨rfl, rfl, rfl, rfl, rfl, rfl⟩, .inl rfl, fun _ => .inl running,
        .inl (Nat.le_refl _), .inl rfl, .inr (Nat.min_le_left _ _)⟩
    · exact setScan_changes ⟨⟨rfl, rfl, rfl, rfl, rfl, rfl⟩, .inl rfl, fun _ => .inl running,
        .inl (Nat.zero_le _), .inr (Nat.min_le_left _ _), .inl rfl⟩
  · exact .refl

theorem freeAll_free (s : State) (i : Fin 16) :
    (allSlots.foldl (fun s i => freeSlot i s) s).slots.look i = none := by
  have emptied : ∀ (l : List (Fin 16)) (u : State), i ∈ l ∨ u.slots.look i = none →
      (l.foldl (fun s i => freeSlot i s) u).slots.look i = none := by
    intro l
    induction l with
    | nil => simp
    | cons a l ih =>
      intro u h
      refine ih _ ?_
      rw [freeSlot_slots, Table.look_put]
      by_cases e : i = a
      · exact .inr (if_pos e)
      · rw [if_neg e]
        exact h.imp_left fun h => (List.mem_cons.1 h).resolve_left e
  exact emptied allSlots s (.inl (mem_allSlots i))

theorem discardStage_changes (s : State) : Changes s (discardStage s) := by
  unfold discardStage
  split
  · rename_i h
    simp only [discardDue, Bool.and_eq_true, beq_iff_eq] at h
    unfold discardAll
    have freed : Changes s (allSlots.foldl (fun s i => freeSlot i s) s) :=
      Changes.foldl (fun s i => freeSlot_changes i s) _ _
    have device : (allSlots.foldl (fun s i => freeSlot i s) s).device = .halting := by
      rw [foldl_view State.device _ (fun s i => aside_device (freeSlot_aside i s)), h.1.1]
    have ax : (allSlots.foldl (fun s i => freeSlot i s) s).ax = s.ax :=
      foldl_view State.ax _ (fun s i => freeSlot_ax i s) _ _
    have gone := freed.tail (.discard device (freeAll_free s) (by rw [ax]; exact h.1.2))
    dsimp only
    split
    · exact gone.trans (enterStarting_changes rfl)
    · exact gone
  · exact .refl

theorem startCheck_changes (c : Conv) (s : State) : Changes s (startCheck c s) := by
  unfold startCheck
  dsimp only
  split
  · rename_i h
    exact .single (.checkStart c _ _ h.1 h.2.1 h.2.2 rfl rfl)
  · exact .refl

theorem startUpStage_changes (s : State) : Changes s (startUpStage s) := by
  unfold startUpStage
  split
  · rename_i h
    split
    · exact .single (.ready _ _ _ h.1 h.2)
    · exact .single (.startUpOff h.1 h.2)
  · exact .refl

/-- SQ0 is no source of the slot arbiter (R26, R27). -/
theorem sourceAt_sq_ne_zero : ∀ n q, sourceAt n = .sq q → q ≠ 0 := by decide

theorem fillOne_changes (s : State) : Changes s (fillOne s) := by
  unfold fillOne
  split
  · rename_i i c n hi hp
    have free := lowestFree_free hi
    have he := (pickSource_eligible hp).1
    refine Relation.ReflTransGen.trans (b := { s with rotation := s.rotation.put c n })
      (Changes.asideTo rfl) ?_
    unfold fillFrom
    unfold eligible at he
    split
    · rename_i q hq
      rw [hq] at he
      exact .single (.fillSq i q _ free he (sourceAt_sq_ne_zero n q hq))
    · rename_i k hk
      rw [hk] at he
      dsimp only
      split
      · rename_i cq x _ hx
        exact .single (.fillScan i k cq x _ _ free he (List.mem_of_getElem? hx))
      · exact .refl
  · exact .refl

theorem fills_changes (n : Nat) (s : State) : Changes s (fills n s) := by
  induction n generalizing s with
  | zero => exact .refl
  | succ n ih => exact (fillOne_changes s).trans (ih _)

theorem adminFetchStage_changes (s : State) : Changes s (adminFetchStage s) := by
  unfold adminFetchStage
  dsimp only
  split
  · rename_i h
    exact .single (.axFetch _ h.1 h.2.1)
  · exact .refl

theorem beginWrite_changes (c : Fin 8) (s : State) : Changes s (beginWrite c s) := by
  unfold beginWrite
  dsimp only
  split
  · rename_i m ms hl _
    split
    · rename_i h
      exact .single (.writeBegins c _ (by rw [hl]; nofun) h.1 h.2)
    · exact .refl
  · exact .refl

/-- The steps within an event are changes (notes/assumptions/1). -/
theorem settle_changes (s : State) : Changes s (settle s) := by
  unfold settle
  have fences : Changes s (fenceStage s) := Changes.foldl (fun s i => fenceRelease_changes i s) _ _
  have passes := fences.trans
    (Changes.foldl (fun s k => passComplete_changes k s) allEight (fenceStage s))
  have expiries := (passes.trans (deleteSqStage_changes _)).trans
    (Changes.foldl (fun s k => expire_changes k s) allEight _)
  have discards := expiries.trans (discardStage_changes _)
  have checks := (discards.trans (startCheck_changes .ca _)).trans (startCheck_changes .cb _)
  have fills := (checks.trans (startUpStage_changes _)).trans (fills_changes 16 _)
  exact (fills.trans (adminFetchStage_changes _)).trans
    (Changes.foldl (fun s c => beginWrite_changes c s) allEight _)

end Sys2Proof.Machine
end

section
/-! The effects of the commands as sequences of changes, and a whole step; the laws that every step
keeps. -/

namespace Sys2Proof.Machine

-- Parallel elaboration of the one text reserves more memory than the check allows.
set_option Elab.async false

/-! ### Device control (chapter 11) -/

theorem reset_changes (s : State) {t : State}
    (h : t = { State.reset with
      pending := t.pending, heldInReset := t.heldInReset, adminSq := t.adminSq, adminCq := t.adminCq,
      cells := (cutWrite s).cells, freeTick := t.freeTick }) : Changes s t := by
  rw [h]
  exact (cutWrite_changes s).tail (.reset ..)

theorem softResetState_changes (s : State) : Changes s (softResetState s) := reset_changes s rfl

theorem powerOnState_changes (held : Bool) (s : State) : Changes s (powerOnState held s) :=
  reset_changes s rfl

theorem writeControl_changes (enable intEnable : Bool) (s : State) :
    Changes s (writeControl enable intEnable s) := by
  have bits : Changes s { s with enable := enable, intEnable := intEnable } := Changes.asideTo rfl
  unfold writeControl
  dsimp only
  split
  · split
    · exact bits.trans (enterStarting_changes ‹_›)
    · exact bits
  · split
    · exact bits.trans (enterHalting_changes ‹_›)
    · exact bits
  · split
    · exact bits
    · exact bits.tail (.faultLeft ‹_›)
  · exact bits
  · exact bits

theorem writeControlValue_changes (v : Word) (s : State) : Changes s (writeControlValue v s) := by
  unfold writeControlValue
  split
  · exact softResetState_changes s
  · exact writeControl_changes _ _ s

theorem writeSubmit_changes (queue : BitVec 4) (tail : Byte) (s : State) :
    Changes s (writeSubmit queue tail s) := by
  unfold writeSubmit
  split
  · rename_i hd
    have works : s.busy := by
      refine .inl ?_
      unfold takesDoorbells at hd
      cases e : s.device <;> simp_all [Device.works]
    split
    · exact raiseEvent_changes _ _ _ s
    · dsimp only
      split
      · rename_i h
        refine .single (.sq _ _ works ?_)
        exact ⟨rfl, rfl, Iff.rfl, fun _ hh _ => ⟨hh, h.2⟩⟩
      · exact raiseEvent_changes _ _ _ s
  · exact .refl

theorem writeRelease_changes (queue : BitVec 4) (head : Byte) (s : State) :
    Changes s (writeRelease queue head s) := by
  unfold writeRelease
  split
  · split
    · exact raiseEvent_changes _ _ _ s
    · dsimp only
      split
      · rename_i h
        exact .single (.release _ _ h.1 h.2)
      · exact raiseEvent_changes _ _ _ s
  · exact .refl

theorem clearPending_changes (bits : Byte) (s : State) : Changes s (clearPending bits s) :=
  .single (.intPending _ fun h => by rw [h]; simp)

theorem clearPendingBit_changes (c : Fin 8) (s : State) : Changes s (clearPendingBit c s) :=
  .single (.intPending _ fun h => by rw [h]; simp)

theorem writeWindow_changes (offset : BitVec 5) (v : Word) (s : State) :
    Changes s (writeWindow offset v s) := by
  unfold writeWindow
  split
  · rename_i r _
    cases r with
    | ident => exact .refl
    | control => exact writeControlValue_changes v s
    | status => exact .refl
    | adminSq =>
      simp only [writeReg]
      split
      · exact Changes.asideTo rfl
      · exact .refl
    | adminCq =>
      simp only [writeReg]
      split
      · exact Changes.asideTo rfl
      · exact .refl
    | submit => exact writeSubmit_changes _ _ s
    | release => exact writeRelease_changes _ _ s
    | intPending => exact clearPending_changes _ s
  · exact .refl

/-! ### Admission (chapter 2) -/

/-- Terminal fields in range that differ name different terminals (R17, checks 3 and 9). -/
theorem termOf_nodup {l : List Byte} (hr : ∀ b ∈ l, b.toNat ≤ 15) (hd : l.Nodup) :
    (l.map termOf).Nodup := by
  refine List.Nodup.map_on (fun a ha b hb e => ?_) hd
  have := congrArg Fin.val e
  simp only [termOf] at this
  have := hr a ha
  have := hr b hb
  exact BitVec.eq_of_toNat_eq (by omega)

/-- The terminals of a need set are those of the fields that the mode uses (R14, R48). -/
theorem needs_terms (r : Request) : r.needs.terms.map Prod.fst = r.usedTerms.map termOf := by
  unfold Request.needs Request.usedTerms
  dsimp only
  cases r.modeV <;> rfl

/-- A MEASURE that passes its checks names distinct terminals (R17, R48). -/
theorem needs_distinct {r : Request} (h : failingMeasureCheck r = none) : r.needs.distinct := by
  unfold failingMeasureCheck at h
  simp only [ite_eq_iff, reduceCtorEq, and_false, false_or, and_true] at h
  obtain ⟨-, range, -, -, -, -, -, differ⟩ := h
  unfold NeedSet.distinct
  rw [needs_terms]
  refine termOf_nodup (fun b hb => ?_) ?_
  · simp only [List.any_eq_true, decide_eq_true_eq, not_exists, not_and, Nat.not_lt] at range
    exact range b hb
  · rw [← allDistinct_iff_nodup]
    simpa using differ

theorem takeEntry_changes {i : Fin 16} {r : SlotRec} {origin : Origin} (e : Entry) {s : State}
    (hr : s.slots.look i = some r)
    (ho : ∀ q k, ({ r with origin := origin } : SlotRec).fromSq q = r.fromSq q
      ∧ ({ r with origin := origin } : SlotRec).fromScan k = r.fromScan k) :
    Changes s (takeEntry i r origin e s) := by
  have keep : ∀ x : SlotRec, x.origin = origin → x.needSet = r.needSet →
      Changes s (s.setSlot i (some x)) := by
    intro x h1 h2
    refine setSlot_changes hr ⟨fun q => ?_, fun k => ?_, fun ns h => .inl (by rw [← h2]; exact h)⟩
    · rw [← (ho q 0).1]; simp [SlotRec.fromSq, h1]
    · rw [← (ho 0 k).2]; simp [SlotRec.fromScan, h1]
  unfold takeEntry
  dsimp only
  split
  · split
    · exact keep _ rfl rfl
    · refine Relation.ReflTransGen.trans (keep _ ?_ ?_) (postSlot_changes _ _ _) <;> rfl
  · split
    · exact keep _ rfl rfl
    · rename_i hm
      split
      · refine Relation.ReflTransGen.trans (keep _ ?_ ?_) (postSlot_changes _ _ _) <;> rfl
      · rename_i hv
        refine Relation.ReflTransGen.trans (setSlot_changes hr ?_) (Changes.asideTo rfl)
        refine ⟨fun q => (ho q 0).1, fun k => (ho 0 k).2, fun ns h => .inr ?_⟩
        cases h
        refine needs_distinct ?_
        unfold failingCheck at hv
        rw [if_neg hm] at hv
        split at hv
        · cases hv
        · exact hv

/-- A read takes the entry at the head of its ring: HEAD moves past it. -/
theorem takenHead_changes (q : Fin 8) (index : Nat) (seq : Word) {s : State} (hb : s.busy) :
    Changes s (s.setSq q
      { s.sqs.look q with head := nextIndex index (s.sqs.look q).size, seq := seq }) :=
  .single (.sq q _ hb ⟨rfl, rfl, Iff.rfl, fun _ hh ht => ⟨nextIndex_lt (Nat.zero_lt_of_lt hh), ht⟩⟩)

/-- A ring that takes a new state, but neither from nor to NONE. -/
theorem sqState_changes (q : Fin 8) (x : SqState) {s : State} (hb : s.busy)
    (h : x = .absent ↔ (s.sqs.look q).state = .absent) :
    Changes s (s.setSq q { s.sqs.look q with state := x }) :=
  .single (.sq q _ hb ⟨rfl, rfl, h, fun _ hh ht => ⟨hh, ht⟩⟩)

theorem fetchDone_changes (i : Fin 16) (e : Entry) (s : State) : Changes s (fetchDone i e s) := by
  unfold fetchDone
  split
  · exact .refl
  · rename_i r hr
    split
    · rename_i q index a _ ho
      dsimp only
      split
      · exact freeSlot_changes i s
      · refine (takenHead_changes q index _ (busy_of_slot hr)).trans (takeEntry_changes e hr fun p k => ?_)
        simp [SlotRec.fromSq, SlotRec.fromScan, ho]
    · exact .refl

theorem fetchError_changes (i : Fin 16) (s : State) : Changes s (fetchError i s) := by
  unfold fetchError
  split
  · exact .refl
  · rename_i r hr
    split
    · rename_i q _ _ _ _
      refine ((sqState_changes q _ (busy_of_slot hr) ?_).trans (freeSlot_changes i _)).trans
        (raiseEvent_changes _ _ _ _)
      split
      · rename_i ha; rw [ha]; simp
      · rfl
    · exact .refl

/-! ### The claim arbiter (chapter 3) -/

theorem grantSlot_changes {i : Fin 16} {g : Grant} {s : State} (h : grantFor s i = some g) :
    Changes s (grantSlot i g s) := by
  obtain ⟨r, ns, hr, hn, meets, -⟩ := grantFor_found h
  have terms : r.terms = ns.terms := by simp [SlotRec.terms, hn]
  unfold grantSlot
  rw [hr]
  dsimp only
  split
  · exact .refl
  · rename_i q _
    have claims := Relation.ReflTransGen.single
      (Change.claim i g.conv r hr (by rw [terms]; exact (canMeet_free meets).2))
    have conv := claims.tail (.convGrant g.conv i
      { s.convs.look g.conv with
        state := .settling, serving := .slot i, currentRange := q.startRange,
        phaseTimer := some (q.settleTime (s.convs.look g.conv).currentRange) } rfl rfl)
    have slots : ∀ j, slotTurns (s.slots.look j) ((Table.build fun j =>
        if j = i then some { r with state := .settling, grant := some g, blocking := false }
        else (s.slots.look j).map SlotRec.bypassed : Table (Option SlotRec) 16).look j) := by
      intro j
      rw [Table.look_build]
      split
      · rename_i e
        subst e
        rw [hr]
        exact SlotRec.turns_of_same rfl rfl
      · cases s.slots.look j with
        | none => trivial
        | some x =>
          obtain ⟨-, -, needs, origin, -⟩ := bypassed_same x
          exact SlotRec.turns_of_same origin needs
    split
    · exact ((conv.tail (.sourceOn _ q.levelV i)).tail (.slots _ slots)).trans (Changes.asideTo rfl)
    · exact (conv.tail (.slots _ slots)).trans (Changes.asideTo rfl)

theorem examine_changes (s : State) : Changes s (examine s) := by
  unfold examine
  split
  · refine Relation.ReflTransGen.trans (b := { s with examDue := false }) (Changes.asideTo rfl) ?_
    generalize ({ s with examDue := false } : State) = u
    generalize 16 = n
    induction n generalizing u with
    | zero => exact .refl
    | succ n ih =>
      unfold grants
      split
      · rename_i i g hg
        exact (grantSlot_changes (firstGrant_found hg).2).trans (ih _)
      · exact .refl
  · exact .refl

/-! ### The converters (chapters 5 and 6) -/

/-- A conversion begins in RUN_UP or AUTOZERO, for what the converter serves. -/
theorem beginConversion_phase (r : ConvRec) (b : Bool) :
    (r.beginConversion b).serving = r.serving ∧ (r.beginConversion b).state ≠ .recovery
      ∧ (r.beginConversion b).state ≠ .idle := by
  unfold ConvRec.beginConversion
  split <;> simp

theorem beginConversion_changes {s : State} {c : Conv} (b : Bool)
    (h : (s.convs.look c).state ≠ .recovery) :
    Changes s (s.setConv c ((s.convs.look c).beginConversion b)) := by
  obtain ⟨serving, recovery, idle⟩ := beginConversion_phase (s.convs.look c) b
  exact .single (.conv c _ serving (.inr ⟨h, recovery, idle⟩))

theorem settlingEnd_changes (c : Conv) (s : State) : Changes s (settlingEnd c s) := by
  unfold settlingEnd
  dsimp only
  split
  · rename_i h
    refine Relation.ReflTransGen.trans
      (beginConversion_changes (servedNoAutozero s c) (by rw [h]; nofun)) ?_
    unfold enterConverting
    split
    · split
      · exact setSlot_changes_same ‹_›
      · exact .refl
    · exact .refl
  · exact .refl

theorem autozeroEnd_changes (c : Conv) (offset : Int) (s : State) :
    Changes s (autozeroEnd c offset s) := by
  unfold autozeroEnd
  dsimp only
  split
  · rename_i h
    exact .single (.conv c _ rfl (.inr ⟨by rw [h]; nofun, by simp, by simp⟩))
  · exact .refl

theorem rangingEnd_changes (c : Conv) (s : State) : Changes s (rangingEnd c s) := by
  unfold rangingEnd
  dsimp only
  split
  · rename_i h
    exact beginConversion_changes _ (by rw [h]; nofun)
  · exact .refl

theorem recoveryEnd_changes (c : Conv) (s : State) : Changes s (recoveryEnd c s) := by
  unfold recoveryEnd
  dsimp only
  split
  · rename_i h
    refine Relation.ReflTransGen.trans (.single (.convFree c { s.convs.look c with
      state := .idle, phaseTimer := none } ?_ (.inr ⟨?_, h⟩))) (Changes.asideTo ?_) <;> rfl
  · exact .refl

theorem raiseDegraded_changes (c : Conv) (before after : Bool) (value : Int) (s : State) :
    Changes s (raiseDegraded c before after value s) := by
  unfold raiseDegraded
  split
  · exact .refl
  · split
    · exact raiseEvent_changes _ _ _ s
    · exact raiseEvent_changes _ _ _ s

theorem correctSlot_changes {i : Fin 16} (c : Conv) {r x : SlotRec} (q : Request) {s : State}
    (hx : s.slots.look i = some x) (ht : x.turns r) : Changes s (correctSlot i c r q s) := by
  unfold correctSlot
  dsimp only
  refine Relation.ReflTransGen.trans ?_ (raiseDegraded_changes _ _ _ _ _)
  refine Relation.ReflTransGen.trans (.single (.conv c _ ?_ (.inl ?_)))
    (setSlot_changes hx (SlotRec.turns_trans ht (SlotRec.turns_of_same ?_ ?_))) <;> rfl

/-- The converter at the end of its request's conversions: IDLE, for nothing, its claim free (R85). -/
def State.convFreed (s : State) (c : Conv) : State :=
  { s.setConv c { s.convs.look c with state := .idle, serving := .nothing, phaseTimer := none } with
    convClaims := s.convClaims.put c .free }

theorem endRequest_changes (c : Conv) {i : Fin 16} {r x : SlotRec} (q : Request) {s : State}
    (hx : s.slots.look i = some x) (ht : x.turns r) : Changes s (endRequest c i r q s) := by
  have free : Changes s (s.convFreed c) := .single (.convFree c _ rfl (.inl rfl))
  have front (g terms) := releaseFrontEnd_changes i g terms (s.convFreed c)
  exact (free.trans (front _ _)).trans (correctSlot_changes c q hx ht)

theorem takeSample_changes (c : Conv) {i : Fin 16} {r : SlotRec} (q : Request) (ovr : Bool)
    (count : Int) {s : State} (hr : s.slots.look i = some r)
    (hc : (s.convs.look c).state ≠ .recovery) : Changes s (takeSample c i r q ovr count s) := by
  unfold takeSample
  dsimp only
  split
  · exact endRequest_changes c q hr (SlotRec.turns_of_same rfl rfl)
  · exact Relation.ReflTransGen.trans (setSlot_changes_same hr) (beginConversion_changes _ hc)

theorem rangeStep_changes (c : Conv) {i : Fin 16} {r : SlotRec} (g : Range) {s : State}
    (hr : s.slots.look i = some r) (hc : (s.convs.look c).state ≠ .recovery) :
    Changes s (rangeStep c i r g s) := by
  unfold rangeStep
  exact Relation.ReflTransGen.trans (setSlot_changes_same hr)
    (.single (.conv c _ rfl (.inr ⟨hc, by simp, by simp⟩)))

theorem endSlotConversion_changes (c : Conv) (i : Fin 16) (ovr : Bool) (n : Nat) {s : State}
    (hc : (s.convs.look c).state ≠ .recovery) : Changes s (endSlotConversion c i ovr n s) := by
  unfold endSlotConversion
  split
  · exact .refl
  · rename_i r hr
    split
    · exact .refl
    · dsimp only
      split
      · split
        · exact rangeStep_changes c _ hr hc
        · exact rangeStep_changes c _ hr hc
        · exact takeSample_changes c _ _ _ hr hc
      · exact takeSample_changes c _ _ _ hr hc

theorem endConversion_changes (c : Conv) (ovr : Bool) (n : Nat) {s : State}
    (hc : (s.convs.look c).state ≠ .recovery) : Changes s (endConversion c ovr n s) := by
  unfold endConversion
  dsimp only
  have counted : Changes s (s.setConv c { s.convs.look c with counter := n }) :=
    .single (.conv c _ rfl (.inl rfl))
  refine counted.trans ?_
  have still : ((s.setConv c { s.convs.look c with counter := n }).convs.look c).state
      ≠ .recovery := by simpa using hc
  generalize s.setConv c { s.convs.look c with counter := n } = u at *
  split
  · exact endSlotConversion_changes c _ ovr n still
  · rename_i hs
    exact .single (.checkEnd c _ _ hs still rfl rfl)
  · exact .refl

theorem runUpEnd_changes (c : Conv) (reading : Integrator) (s : State) :
    Changes s (runUpEnd c reading s) := by
  unfold runUpEnd
  dsimp only
  split
  · rename_i h
    have down : Changes s (s.setConv c { s.convs.look c with
        state := .runDown, polarity := if reading.positive then .pos else .neg, counter := 0 }) :=
      .single (.conv c _ rfl (.inr ⟨by rw [h]; nofun, by simp, by simp⟩))
    split
    · exact down.trans (endConversion_changes c false 0 (by simp))
    · exact down
  · exact .refl

theorem runDownEnd_changes (c : Conv) (counts : Nat) (s : State) :
    Changes s (runDownEnd c counts s) := by
  unfold runDownEnd
  split
  · rename_i h
    dsimp only
    split
    · exact endConversion_changes c _ _ (by rw [h]; nofun)
    · exact endConversion_changes c _ _ (by rw [h]; nofun)
  · exact .refl

theorem runDownOverrange_changes (c : Conv) (s : State) : Changes s (runDownOverrange c s) := by
  unfold runDownOverrange
  split
  · rename_i h
    exact endConversion_changes c _ _ (by rw [h]; nofun)
  · exact .refl

theorem setLimitState_changes (place : Nat) (x : LimitState) (s : State) :
    Changes s (setLimitState place x s) := by
  refine .single (.templates _ ?_)
  refine List.ext_getElem? fun n => ?_
  rw [List.getElem?_map, List.getElem?_map, List.getElem?_modify]
  cases s.templates[n]? with
  | none => rfl
  | some t => by_cases e : place = n <;> simp [e]

theorem classifySlot_changes (i : Fin 16) (place : Nat) (t : Template) (l : LimitBlock) (res : Result)
    (s : State) : Changes s (classifySlot i place t l res s) := by
  unfold classifySlot
  dsimp only
  generalize (if res.status.classified then classify l t.limitState res else t.limitState) = new
  split
  · exact freeSlot_changes i s
  · exact (setLimitState_changes place new s).trans (postSlot_changes _ _ _)

theorem correctionEnd_changes (i : Fin 16) (s : State) : Changes s (correctionEnd i s) := by
  unfold correctionEnd
  split
  · exact .refl
  · split
    · split
      · exact postSlot_changes _ _ s
      · split
        · exact postSlot_changes _ _ s
        · split
          · split
            · exact classifySlot_changes _ _ _ _ _ s
            · exact postSlot_changes _ _ s
          · exact postSlot_changes _ _ s
    · exact .refl

/-! ### The calibration store (chapter 7) -/

theorem loadDone_changes (s : State) : Changes s (loadDone s) := by
  unfold loadDone
  split
  · rename_i h
    exact .single (.loadDone h.1 h.2)
  · exact .refl

/-- The end of a write and of its command. -/
theorem writeEnd_changes {s : State} {w : WriteCtx} (hw : s.writeCtx = some w) (status : AdminStatus)
    (aux : Nat) (value : Int) (x : Shadow)
    (hx : x.valid = false ∨ x = { wordA := w.image.wordA, wordB := w.image.wordB,
                                  generation := (s.cells.look w.entry).counter, valid := true }) :
    Changes s (complete status aux value
      { s with writeCtx := none, shadows := s.shadows.put w.entry x }) := by
  unfold complete completeWith
  split
  · rename_i ctx hax
    have hax : s.ax = .executing ctx := hax
    refine Relation.ReflTransGen.trans
      (.single (.writeEnd w x (.executing { ctx with work := .nothing }) hw (.inr ⟨ctx, hax, rfl⟩) hx)) ?_
    unfold joinList
    split
    · exact .single (.answer { ctx with work := .nothing } _ _ _ rfl nofun nofun (.inr ⟨‹_›, rfl⟩))
    · exact .single (.answer { ctx with work := .nothing } _ ⟨0, .success, 0, 0, .empty, 0⟩ _ rfl nofun nofun (.inl rfl))
  · exact .single (.writeEnd w x s.ax hw (.inl rfl) hx)

theorem failWrite_changes {s : State} {w : WriteCtx} (hw : s.writeCtx = some w)
    (status : AdminStatus) (aux : Nat) : Changes s (failWrite w status aux s) :=
  writeEnd_changes hw _ _ _ _ (.inl rfl)

theorem samplePulse_changes {s : State} {w : WriteCtx} (hw : s.writeCtx = some w) (guard : Bool)
    (hp : w.phase = .charge ∨ w.pulses < w.budget) : Changes s (samplePulse w guard s) := by
  unfold samplePulse
  split
  · exact .single (.pulse w hw hp)
  · exact failWrite_changes hw _ _

theorem chargeEnd_changes (guard : Bool) (s : State) : Changes s (chargeEnd guard s) := by
  unfold chargeEnd
  split
  · rename_i w hw
    split
    · exact samplePulse_changes hw guard (.inl ‹_›)
    · exact .refl
  · exact .refl

theorem pulseEnd_changes (moved : BitVec 80) (s : State) : Changes s (pulseEnd moved s) := by
  unfold pulseEnd
  split
  · rename_i w hw
    split
    · exact .single (.pulsed w _ hw ‹_›)
    · exact .refl
  · exact .refl

theorem verifyEnd_changes (guard : Bool) (s : State) : Changes s (verifyEnd guard s) := by
  unfold verifyEnd
  split
  · rename_i w hw
    split
    · split
      · exact writeEnd_changes hw _ _ _ _ (.inr rfl)
      · split
        · exact failWrite_changes hw _ _
        · exact samplePulse_changes hw guard (.inr (by omega))
    · exact .refl
  · exact .refl

theorem calReadDone_changes (ok : Bool) (s : State) : Changes s (calReadDone ok s) := by
  unfold calReadDone
  split
  · rename_i hw
    split <;> exact complete_changes _ _ _ (by simp [hw]) (by simp [hw])
  · exact .refl

/-- A CAL_WRITE that the AX has taken changes the AX and CQ0's list, or commits its counter. -/
theorem runCalWrite_changes (entry budget : Byte) (expected : BitVec 16) (a b : Word) (guard : Bool)
    {s : State} {ctx : AxCtx} (hax : s.ax = .executing ctx) (hw : ctx.work = .nothing) :
    stepChanges s (runCalWrite entry budget expected a b guard s) := by
  have work : s.axWork = .nothing := (axWork_executing hax).trans hw
  have ends : ∀ status aux value, stepChanges s (complete status aux value s) := fun _ _ _ =>
    .inl (complete_changes _ _ _ (by simp [work]) (by simp [work]))
  unfold runCalWrite
  dsimp only
  split
  · exact ends _ _ _
  split
  · exact ends _ _ _
  split
  · exact ends _ _ _
  split
  · exact ends _ _ _
  split
  · exact ends _ _ _
  split
  · exact ends _ _ _
  split
  · exact ends _ _ _
  rename_i range code wordA gain fresh worn _
  have entry_val : (sixteenth entry.toNat).val = entry.toNat := by
    simp only [sixteenth]
    omega
  refine .inr ⟨s, _, .refl, ?_, .refl⟩
  simp only [commitWrite, keepWork, hax]
  refine .commit _ _ a _ ctx hax hw (by omega) ?_ ?_ ?_
  · rw [entry_val]
    simpa using wordA
  · rw [entry_val]
    unfold wordBInRange
    split
    · rename_i low
      simpa [low] using gain
    · simp
  · unfold budgetPulses
    split <;> decide

/-! ### Record writes and interrupt coalescing (chapter 9) -/

theorem setCq_setCq (s : State) (c : Fin 8) (x y : Cq) : (s.setCq c x).setCq c y = s.setCq c y := by
  simp only [State.setCq]
  congr 1
  refine Table.ext_look fun j => ?_
  simp only [Table.look_put]
  split <;> rfl

theorem coalesce_freeSlot (c : Fin 8) (i : Fin 16) (s : State) :
    coalesce c (freeSlot i s) = freeSlot i (coalesce c s) := by
  have bits (u : State) : freeSlot i (setPendingBit c u) = setPendingBit c (freeSlot i u) := by
    unfold freeSlot
    cases h : u.slots.look i with
    | none => simp only [setPendingBit, h]
    | some r => cases ho : r.origin <;> simp only [setPendingBit, h, ho] <;> rfl
  have ring (u : State) (x : Cq) : freeSlot i (u.setCq c x) = (freeSlot i u).setCq c x := by
    unfold freeSlot
    cases h : u.slots.look i with
    | none => simp only [State.setCq_slots, h]
    | some r => cases ho : r.origin <;> simp only [State.setCq_slots, h, ho] <;> rfl
  unfold coalesce
  simp only [freeSlot_cqs]
  split
  · rw [bits, ring]
  · rw [ring]

/-- The coalescing of a record written, with the ring as it then is. -/
theorem coalesce_written (c : Fin 8) (w : Cq) (s : State) :
    ∃ n timer b, w.counts n ∧ coalesce c (s.setCq c w)
      = { s.setCq c { w with unsignalled := n, timer := timer } with intPending := b } := by
  unfold coalesce
  simp only [State.setCq_cqs, Table.look_put_same, setCq_setCq]
  split
  · exact ⟨0, none, _, .inl rfl, rfl⟩
  · exact ⟨w.unsignalled + 1, _, s.intPending, .inr ⟨rfl, by omega⟩, rfl⟩

theorem writeDone_changes (c : Fin 8) (s : State) : Changes s (writeDone c s) := by
  unfold writeDone
  dsimp only
  split
  · rename_i m rest x hl hw
    obtain ⟨n, timer, b, hn, he⟩ := coalesce_written c ((s.cqs.look c).written rest) s
    have written : ∀ ax, ax = (if m.isAdmin then .idle else s.ax) → Changes s
        { s.setCq c { (s.cqs.look c).written rest with unsignalled := n, timer := timer } with
          intPending := b, ax := ax } := fun ax hax =>
      .single (.written c m rest x n timer b ax hl hw hn hax)
    cases m with
    | slot i =>
      simp only [memberWritten]
      rw [coalesce_freeSlot, he]
      exact (written s.ax rfl).trans (freeSlot_changes i _)
    | admin d =>
      obtain ⟨n', timer', b', hn', he'⟩ := coalesce_written c ((s.cqs.look c).written rest)
        { s with ax := .idle }
      have : coalesce c (memberWritten (.admin d) (s.setCq c ((s.cqs.look c).written rest)))
          = coalesce c (({ s with ax := .idle } : State).setCq c ((s.cqs.look c).written rest)) := rfl
      rw [this, he']
      exact .single (.written c (.admin d) rest x n' timer' b' .idle hl hw hn' rfl)
    | scanDone d =>
      simp only [memberWritten]
      rw [he]
      exact written s.ax rfl
    | event e =>
      simp only [memberWritten]
      rw [he]
      exact written s.ax rfl
  · exact .refl

theorem timerExpiry_changes (c : Fin 8) (s : State) : Changes s (timerExpiry c s) := by
  unfold timerExpiry
  dsimp only
  split
  · exact .single (.expired c _ ‹_›)
  · exact .refl

/-! ### A write error on CQ1-CQ7 (R171) -/

theorem setCq_comm {c d : Fin 8} (h : c ≠ d) (s : State) (x y : Cq) :
    (s.setCq c x).setCq d y = (s.setCq d y).setCq c x := by
  simp only [State.setCq]
  congr 1
  refine Table.ext_look fun j => ?_
  simp only [Table.look_put]
  split <;> split <;> simp_all

/-- Whether scan `k` runs with CQ `c` as its target (R153). -/
def State.losesTarget (s : State) (c k : Fin 8) : Prop :=
  ((s.scans.look k).state = .running ∨ (s.scans.look k).state = .stopping)
    ∧ (s.scans.look k).target = some c

theorem loseTarget_of {s : State} {c k : Fin 8} (h : s.losesTarget c k) :
    loseTarget c k s = completeStop k (raiseEvent .scanTargetLost k.val c.val (orphanSlots k
      (s.setScan k { (s.scans.look k).loadedNow with nextTemplate := (s.scans.look k).count }))) :=
  if_pos h

theorem loseTarget_of_not {s : State} {c k : Fin 8} (h : ¬ s.losesTarget c k) :
    loseTarget c k s = s := if_neg h

section otherRing

variable {c : Fin 8} (hc : c ≠ 0) (x : Cq)
include hc

theorem raiseEvent_setCq (kind : EventKind) (object : Nat) (value : Int) (s : State) :
    raiseEvent kind object value (s.setCq c x) = (raiseEvent kind object value s).setCq c x := by
  unfold raiseEvent
  simp only [State.setCq_cqs, Table.look_put_ne _ _ _ _ (Ne.symm hc)]
  split
  · exact setCq_comm hc s _ _
  · rfl

theorem completeStop_setCq (k : Fin 8) (s : State) :
    completeStop k (s.setCq c x) = (completeStop k s).setCq c x := by
  have work : (s.setCq c x).axWork = s.axWork := rfl
  unfold completeStop complete completeWith joinList
  simp only [work, State.setCq_ax, State.setCq_cqs, Table.look_put_ne _ _ _ _ (Ne.symm hc),
    State.setCq_scans]
  split
  · split
    · split
      · rw [setCq_comm hc]
        rfl
      · rfl
    · rfl
  · rfl

theorem loseTarget_setCq (c' k : Fin 8) (s : State) :
    loseTarget c' k (s.setCq c x) = (loseTarget c' k s).setCq c x := by
  by_cases h : s.losesTarget c' k
  · rw [loseTarget_of h, loseTarget_of (s := s.setCq c x) h, ← completeStop_setCq hc,
      ← raiseEvent_setCq hc]
    rfl
  · rw [loseTarget_of_not h, loseTarget_of_not (s := s.setCq c x) h]

theorem loseTargets_setCq (c' : Fin 8) (l : List (Fin 8)) (s : State) :
    l.foldl (fun s k => loseTarget c' k s) (s.setCq c x)
      = (l.foldl (fun s k => loseTarget c' k s) s).setCq c x := by
  induction l generalizing s with
  | nil => rfl
  | cons a l ih => rw [List.foldl_cons, loseTarget_setCq hc, ih, List.foldl_cons]

end otherRing

/-- The ring faulted by a write error, its list and its write gone (R171). -/
def Cq.faultedNow (d : Cq) : Cq :=
  { d with state := .faulted, list := [], writing := none, unsignalled := 0, timer := none }

/-- The steps of R171 touch no other ring but CQ0, so the ring may lose its list first. -/
theorem faultCq_eq {c : Fin 8} (hc : c ≠ 0) (s : State) :
    faultCq c s = discardMembers (s.cqs.look c).list
      (allEight.foldl (fun s k => loseTarget c k s)
        (raiseEvent .cqWriteError c.val (s.cqs.look c).tail
          (s.setCq c (s.cqs.look c).faultedNow))) := by
  unfold faultCq
  dsimp only
  rw [raiseEvent_setCq hc, raiseEvent_setCq hc, loseTargets_setCq hc, loseTargets_setCq hc,
    setCq_setCq]
  simp only [State.setCq_cqs, Table.look_put_same]
  rfl

theorem writeError_changes (c : Fin 8) (s : State) : Changes s (writeError c s) := by
  unfold writeError
  split
  · exact .refl
  · rename_i hw
    split
    · exact enterFault_changes _ s
    · rename_i hc
      rw [faultCq_eq hc]
      have hw : (s.cqs.look c).writing.isSome = true := by
        cases e : (s.cqs.look c).writing <;> simp_all
      refine (((Relation.ReflTransGen.single (.cqFaulted c hc hw)).trans
        (raiseEvent_changes _ _ _ _)).trans
        (Changes.foldl (fun s k => loseTarget_changes c k s) allEight _)).trans
        (discardMembers_changes _ _)

/-! ### The administrative commands (chapters 8 and 10) -/

/-- A template that passes its checks names distinct terminals (R17, R140). -/
theorem firstFailingTemplate_none {ts : List Template} :
    ∀ {n : Nat}, firstFailingTemplate n ts = none → ∀ t ∈ ts, failingTemplateCheck t = none := by
  induction ts with
  | nil => exact fun _ _ h => nomatch h
  | cons a l ih =>
    intro n h t ht
    unfold firstFailingTemplate at h
    split at h
    · cases h
    · rcases List.mem_cons.1 ht with rfl | ht
      · assumption
      · exact ih h t ht

theorem template_distinct {t : Template} (h : failingTemplateCheck t = none) :
    t.request.needs.distinct := by
  refine needs_distinct ?_
  unfold failingTemplateCheck at h
  split at h
  · cases h
  · split at h
    · cases h
    · assumption

theorem resetLimits_changes (k : Fin 8) (s : State) : Changes s (resetLimits k s) := by
  refine .single (.templates _ ?_)
  refine List.ext_getElem? fun n => ?_
  rw [List.getElem?_map, List.getElem?_map, List.getElem?_mapIdx]
  cases s.templates[n]? with
  | none => rfl
  | some t =>
    simp only [Option.map_some]
    split <;> rfl

theorem eighth_ne_zero {n : Nat} (h0 : n ≠ 0) (h7 : ¬ 7 < n) : eighth n ≠ 0 := fun e => by
  have := congrArg Fin.val e
  rw [eighth_val (by omega)] at this
  exact h0 this

/-- Aborts leave the AX as it stood. -/
theorem abortSlots_ax (d : AbortDetail) (p : SlotRec → Bool) {s t : State} (h : t.ax = s.ax) :
    (abortSlots d p t).1.ax = s.ax := by
  have one : ∀ i u, (abortSlot d i u).1.ax = u.ax := by
    intro i u
    unfold abortSlot
    split
    · rfl
    · split
      · split <;> rfl
      · simp
      · rw [postSlot_ax]
        unfold cutGranted
        dsimp only
        split <;> rfl
      · rw [postSlot_ax]
        unfold cutGranted
        dsimp only
        split <;> rfl
      · rfl
      · split <;> rfl
      · rfl
  unfold abortSlots
  generalize (0 : Nat) = n
  generalize hl : t.age = l
  clear hl
  induction l generalizing t n with
  | nil => exact h
  | cons a l ih =>
    rw [List.foldl_cons]
    dsimp only
    split
    · exact ih ((one a t).trans h) _
    · exact ih h n

section taken

/-! The AX has just taken the command: it keeps nothing yet. -/

variable {s : State} {ctx : AxCtx} (hax : s.ax = .executing ctx) (hw : ctx.work = .nothing)
include hax hw

theorem taken_complete_changes (status : AdminStatus) (aux : Nat) (value : Int) {t : State}
    (h : t.ax = s.ax) : Changes t (complete status aux value t) := by
  have work : t.axWork = .nothing := by rw [axWork_executing (h.trans hax), hw]
  exact complete_changes _ _ _ (by simp [work]) (by simp [work])

theorem taken_keepWork_changes {w : AxWork} {t : State} (h : t.ax = s.ax)
    (hn : ∀ k n addr, w ≠ .scanLoadDma k n addr) : Changes t (keepWork w t) := by
  have work : t.axWork = .nothing := by rw [axWork_executing (h.trans hax), hw]
  exact keepWork_changes w work fun k n addr e => absurd e (hn k n addr)

theorem runCreateCq_changes (cqId : Byte) (base : Word) (size : BitVec 16) (intEnable : Bool)
    (threshold timer : Byte) : Changes s (runCreateCq cqId base size intEnable threshold timer s) := by
  have ends := fun status aux value => taken_complete_changes hax hw status aux value (t := s) rfl
  unfold runCreateCq
  dsimp only
  split
  · exact ends _ _ _
  split
  · exact ends _ _ _
  split
  · exact ends _ _ _
  split
  · exact ends _ _ _
  split
  · exact ends _ _ _
  split
  · exact ends _ _ _
  rename_i id _ _ _ sizes thresholds
  have busy : (clearPendingBit (eighth cqId.toNat) s).busy := busy_of_executing (ctx := ctx) hax
  exact ((clearPendingBit_changes _ s).tail (.cqNew _ _
    (eighth_ne_zero (fun e => id (.inl e)) (fun e => id (.inr e))) busy rfl rfl
    (by simp only [newCq]; omega))).trans (taken_complete_changes hax hw _ _ _ rfl)

theorem runDeleteCq_changes (cqId : Byte) : Changes s (runDeleteCq cqId s) := by
  have ends := fun status aux value => taken_complete_changes hax hw status aux value (t := s) rfl
  unfold runDeleteCq
  dsimp only
  split
  · exact ends _ _ _
  split
  · exact ends _ _ _
  split
  · exact ends _ _ _
  rename_i id _ _ _
  refine (((Relation.ReflTransGen.single (.cqGone _
    (eighth_ne_zero (fun e => id (.inl e)) (fun e => id (.inr e))))).trans
    (clearPendingBit_changes _ _)).trans (discardMembers_changes _ _)).trans
    (taken_complete_changes hax hw _ _ _ ?_)
  exact foldl_view State.ax _ (fun s m => by cases m <;> simp) _ _

theorem runCreateSq_changes (sqId : Byte) (base : Word) (size : BitVec 16)
    (boundCq cls limit : Byte) : Changes s (runCreateSq sqId base size boundCq cls limit s) := by
  have ends := fun status aux value => taken_complete_changes hax hw status aux value (t := s) rfl
  unfold runCreateSq
  dsimp only
  split
  · exact ends _ _ _
  split
  · exact ends _ _ _
  split
  · exact ends _ _ _
  split
  · exact ends _ _ _
  split
  · exact ends _ _ _
  split
  · exact ends _ _ _
  split
  · exact ends _ _ _
  split
  · exact ends _ _ _
  split
  · exact ends _ _ _
  rename_i id _ absent _ sizes _ _ _ _
  exact (Relation.ReflTransGen.single (.sqNew _ _
    (eighth_ne_zero (fun e => id (.inl e)) (fun e => id (.inr e))) (busy_of_executing hax)
    (by simpa using absent) (by simp) (by simp only; omega))).trans
    (taken_complete_changes hax hw _ _ _ rfl)

theorem runDeleteSq_changes (sqId : Byte) : Changes s (runDeleteSq sqId s) := by
  have ends := fun status aux value => taken_complete_changes hax hw status aux value (t := s) rfl
  unfold runDeleteSq
  dsimp only
  split
  · exact ends _ _ _
  split
  · exact ends _ _ _
  rename_i id absent
  refine ((Relation.ReflTransGen.single (.sq _ _ (busy_of_executing hax)
    ⟨rfl, rfl, by simp [absent], fun _ hh ht => ⟨hh, ht⟩⟩)).trans (abortSlots_changes _ _ _)).trans
    (taken_keepWork_changes hax hw (abortSlots_ax _ _ rfl) (by simp))

theorem runAbort_changes (sqId select : Byte) (tag : BitVec 16) :
    Changes s (runAbort sqId select tag s) := by
  have ends := fun status aux value => taken_complete_changes hax hw status aux value (t := s) rfl
  unfold runAbort
  dsimp only
  split
  · exact ends _ _ _
  split
  · exact ends _ _ _
  split
  · exact ends _ _ _
  exact (abortSlots_changes _ _ s).trans
    (taken_complete_changes hax hw _ _ _ (abortSlots_ax _ _ rfl))

theorem runCalRead_changes (entry : Byte) (addr : Word) : Changes s (runCalRead entry addr s) := by
  unfold runCalRead
  split
  · exact taken_complete_changes hax hw _ _ _ rfl
  · exact taken_keepWork_changes hax hw rfl (by simp)

theorem runScanLoad_changes (scan count : Byte) (addr : Word) :
    Changes s (runScanLoad scan count addr s) := by
  have ends := fun status aux value => taken_complete_changes hax hw status aux value (t := s) rfl
  have work : s.axWork = .nothing := (axWork_executing hax).trans hw
  unfold runScanLoad
  dsimp only
  split
  · exact ends _ _ _
  split
  · exact ends _ _ _
  split
  · exact ends _ _ _
  split
  · exact ends _ _ _
  rename_i _ _ rest room
  have rest : (s.scans.look (eighth scan.toNat)).state = .empty
      ∨ (s.scans.look (eighth scan.toNat)).state = .loaded := by
    by_contra e
    exact rest (.inl e)
  split
  · exact (Relation.ReflTransGen.single (.scanLoad _ [] (.inl ⟨work, rfl, rest⟩) nofun)).trans
      (taken_complete_changes hax hw _ _ _ rfl)
  · refine keepWork_changes _ work fun k n addr e => ?_
    cases e
    exact ⟨rest, by omega⟩

theorem runScanStart_changes (scan : Byte) (period passes : BitVec 16) (target cls limit : Byte) :
    Changes s (runScanStart scan period passes target cls limit s) := by
  have ends := fun status aux value => taken_complete_changes hax hw status aux value (t := s) rfl
  unfold runScanStart
  dsimp only
  split
  · exact ends _ _ _
  split
  · exact ends _ _ _
  split
  · exact ends _ _ _
  split
  · exact ends _ _ _
  split
  · exact ends _ _ _
  split
  · exact ends _ _ _
  split
  · exact ends _ _ _
  split
  · exact ends _ _ _
  rename_i _ period0 targets _ _ idle filled _
  have loaded : (s.scans.look (eighth scan.toNat)).state = .loaded :=
    (ScanState.at_rest (fun e => idle (.inl e)) (fun e => idle (.inr (.inl e)))).resolve_left filled
  have slots : scanHasSlots s (eighth scan.toNat) = false := by
    by_contra e
    exact idle (.inr (.inr (.inl (by simpa using e))))
  have start : Change (resetLimits (eighth scan.toNat) s) _ :=
    .scanStart _ ((s.scans.look (eighth scan.toNat)).started period.toNat passes.toNat
      (eighth target.toNat) (classOf cls.toNat) limit.toNat) ctx hax hw slots loaded rfl
      ⟨rfl, rfl, rfl⟩ rfl
      ⟨_, rfl, eighth_ne_zero (fun e => targets (.inl e)) (fun e => targets (.inr e))⟩
      (Nat.one_le_iff_ne_zero.2 period0) (Nat.min_le_left _ _) (Nat.zero_le _)
  exact ((resetLimits_changes _ s).tail start).trans (taken_complete_changes hax hw _ _ _ rfl)

theorem runScanStop_changes (scan : Byte) : Changes s (runScanStop scan s) := by
  have ends := fun status aux value => taken_complete_changes hax hw status aux value (t := s) rfl
  unfold runScanStop
  dsimp only
  split
  · exact ends _ _ _
  split
  · rename_i running
    split
    · simp only [keepWork, State.setScan_ax, hax]
      exact .single (.scanStop _ ctx hax hw running)
    · exact ((setScan_changes (Scan.loadedNow_turns (.inl running))).trans
        (joinScanDone_changes _ _ _)).trans (taken_complete_changes hax hw _ _ _ (by simp))
  · exact ends _ _ _

theorem runScanStatus_changes (scan : Byte) : Changes s (runScanStatus scan s) := by
  have work : s.axWork = .nothing := (axWork_executing hax).trans hw
  unfold runScanStatus
  dsimp only
  split
  · exact taken_complete_changes hax hw _ _ _ rfl
  · exact completeWith_changes _ _ _ _ _ (by simp [work]) (by simp [work])

theorem runCommand_changes (cmd : AdminCmd) (guard : Bool) : stepChanges s (runCommand cmd guard s) := by
  cases cmd with
  | identify addr => exact .inl (taken_keepWork_changes hax hw rfl (by simp))
  | createCq => exact .inl (runCreateCq_changes hax hw ..)
  | deleteCq => exact .inl (runDeleteCq_changes hax hw _)
  | createSq => exact .inl (runCreateSq_changes hax hw ..)
  | deleteSq => exact .inl (runDeleteSq_changes hax hw _)
  | abort => exact .inl (runAbort_changes hax hw ..)
  | calRead => exact .inl (runCalRead_changes hax hw ..)
  | calWrite => exact runCalWrite_changes _ _ _ _ _ _ hax hw
  | scanLoad => exact .inl (runScanLoad_changes hax hw ..)
  | scanStart => exact .inl (runScanStart_changes hax hw ..)
  | scanStop => exact .inl (runScanStop_changes hax hw _)
  | scanStatus => exact .inl (runScanStatus_changes hax hw _)
  | other => exact .inl (taken_complete_changes hax hw _ _ _ rfl)

end taken

theorem takeCommand_changes (cid : BitVec 16) (cmd : AdminCmd) (guard : Bool) (s : State) :
    stepChanges s (takeCommand cid cmd guard s) := by
  unfold takeCommand
  split
  · rename_i index hax
    dsimp only
    split
    · exact .inl (.single (.axIdle index hax))
    · refine stepChanges.after ?_ (runCommand_changes (ctx :=
        { position := index, commandId := cid, cmd := cmd, work := .nothing }) rfl rfl cmd guard)
      exact (takenHead_changes 0 index (s.sqs.look 0).seq (busy_of_ax (by rw [hax]; nofun))).tail
        (.axTake index _ hax rfl)
  · exact .inl .refl

theorem adminFetchError_changes (s : State) : Changes s (adminFetchError s) := by
  unfold adminFetchError
  split
  · exact enterFault_changes _ s
  · exact .refl

theorem identifyDone_changes (ok : Bool) (s : State) : Changes s (identifyDone ok s) := by
  unfold identifyDone
  split
  · rename_i hw
    split <;> exact complete_changes _ _ _ (by simp [hw]) (by simp [hw])
  · exact .refl

theorem scanLoadDone_changes (images : Option (List Entry)) (s : State) :
    Changes s (scanLoadDone images s) := by
  unfold scanLoadDone
  split
  · rename_i k n addr hw
    have ends : ∀ status aux value, Changes s (complete status aux value s) := fun _ _ _ =>
      complete_changes _ _ _ (by simp [hw]) (by simp [hw])
    split
    · exact ends _ _ _
    · rename_i es
      split
      · rename_i len
        dsimp only
        split
        · exact ends _ _ _
        · rename_i valid
          have load : Change s (loadScan k (es.map entryTemplate) s) :=
            .scanLoad k _ (.inr ⟨addr, by simp [len, hw]⟩)
              fun t ht => template_distinct (firstFailingTemplate_none valid t ht)
          have work : (loadScan k (es.map entryTemplate) s).axWork = .scanLoadDma k n addr := hw
          exact (Relation.ReflTransGen.single load).trans
            (complete_changes _ _ _ (by simp [work]) (by simp [work]))
      · exact .refl
  · exact .refl

theorem tick_changes (s : State) : Changes s (tick s) := by
  unfold tick
  split
  · refine .single (.scans _ fun k => ?_)
    rw [Table.look_build]
    unfold Scan.ticked
    split
    · exact ⟨⟨rfl, rfl, rfl, rfl, rfl, rfl⟩, .inl rfl, fun h => .inr ⟨h, rfl⟩, .inl (Nat.le_refl _),
        .inl rfl, .inl rfl⟩
    · exact Scan.turns_refl _
  · exact .refl

/-! ### A whole step -/

/-- A command's own effect and the steps within its event. -/
theorem act_stepChanges {f : State → State} {s t : State} (hf : stepChanges s (f s))
    (h : act f s = .next t) : stepChanges s t := by
  unfold act at h
  split at h
  · cases h; exact .inl .refl
  · rw [Host.Outcome.next.injEq] at h
    exact h ▸ hf.before (settle_changes _)

theorem act_changes {f : State → State} {s t : State} (hf : Changes s (f s))
    (h : act f s = .next t) : stepChanges s t := act_stepChanges (.inl hf) h

theorem exec_stepChanges (c : Instr) {s t : State} (h : exec c s = .next t) : stepChanges s t := by
  cases c with
  | powerOnReset => cases h; exact .inl (powerOnState_changes false s)
  | rstNHeldLow => cases h; exact .inl (powerOnState_changes true s)
  | softReset => exact act_changes (softResetState_changes s) h
  | enableOn => exact act_changes (writeControl_changes _ _ s) h
  | enableOff => exact act_changes (writeControl_changes _ _ s) h
  | leaveFault => exact act_changes (writeControl_changes _ _ s) h
  | intEnableWrite => exact act_changes (writeControlValue_changes _ s) h
  | submit => exact act_changes (writeSubmit_changes _ _ s) h
  | release => exact act_changes (writeRelease_changes _ _ s) h
  | intPendingClear => exact act_changes (clearPending_changes _ s) h
  | registerWrite => exact act_changes (writeWindow_changes _ _ s) h
  | slotFill => exact act_changes (fillOne_changes s) h
  | sqFetchDone => exact act_changes (fetchDone_changes _ _ s) h
  | sqFetchBusError => exact act_changes (fetchError_changes _ s) h
  | fenceRelease => exact act_changes (fenceRelease_changes _ s) h
  | examination => exact act_changes (examine_changes s) h
  | settlingEnd => exact act_changes (settlingEnd_changes _ s) h
  | autozeroEnd => exact act_changes (autozeroEnd_changes _ _ s) h
  | runUpEnd => exact act_changes (runUpEnd_changes _ _ s) h
  | runDownEnd => exact act_changes (runDownEnd_changes _ _ s) h
  | runDownOverrange => exact act_changes (runDownOverrange_changes _ s) h
  | rangingEnd => exact act_changes (rangingEnd_changes _ s) h
  | recoveryEnd => exact act_changes (recoveryEnd_changes _ s) h
  | correctionEnd => exact act_changes (correctionEnd_changes _ s) h
  | writeBegin => exact act_changes (beginWrite_changes _ s) h
  | recordWriteDone => exact act_changes (writeDone_changes _ s) h
  | cqWriteBusError => exact act_changes (writeError_changes _ s) h
  | adminFetchStart => exact act_changes (adminFetchStage_changes s) h
  | adminFetchDone => exact act_stepChanges (takeCommand_changes _ _ _ s) h
  | adminFetchBusError => exact act_changes (adminFetchError_changes s) h
  | identify => exact act_stepChanges (takeCommand_changes _ _ _ s) h
  | createCq => exact act_stepChanges (takeCommand_changes _ _ _ s) h
  | deleteCq => exact act_stepChanges (takeCommand_changes _ _ _ s) h
  | createSq => exact act_stepChanges (takeCommand_changes _ _ _ s) h
  | deleteSq => exact act_stepChanges (takeCommand_changes _ _ _ s) h
  | abort => exact act_stepChanges (takeCommand_changes _ _ _ s) h
  | calRead => exact act_stepChanges (takeCommand_changes _ _ _ s) h
  | calWrite => exact act_stepChanges (takeCommand_changes _ _ _ s) h
  | scanLoad => exact act_stepChanges (takeCommand_changes _ _ _ s) h
  | scanStart => exact act_stepChanges (takeCommand_changes _ _ _ s) h
  | scanStop => exact act_stepChanges (takeCommand_changes _ _ _ s) h
  | scanStatus => exact act_stepChanges (takeCommand_changes _ _ _ s) h
  | invalidOpcode cid opcode =>
    refine act_stepChanges ?_ h
    split
    · exact .inl .refl
    · exact takeCommand_changes _ _ _ s
  | identifyDmaDone => exact act_changes (identifyDone_changes _ s) h
  | calReadDmaDone => exact act_changes (calReadDone_changes _ s) h
  | scanLoadDmaDone => exact act_changes (scanLoadDone_changes _ s) h
  | deleteSqEnd => exact act_changes (deleteSqStage_changes s) h
  | passCompletion => exact act_changes (passComplete_changes _ s) h
  | timebaseTick => exact act_changes (tick_changes s) h
  | countdownExpiry => exact act_changes (expire_changes _ s) h
  | coalescingTimerExpiry => exact act_changes (timerExpiry_changes _ s) h
  | shadowLoadDone => exact act_changes (loadDone_changes s) h
  | startUpRefCheckStart => exact act_changes (startCheck_changes _ s) h
  | startUpEnd => exact act_changes (startUpStage_changes s) h
  | discardStep => exact act_changes (discardStage_changes s) h
  | chargeEnd => exact act_changes (chargeEnd_changes _ s) h
  | pulseEnd => exact act_changes (pulseEnd_changes _ s) h
  | verifyEnd => exact act_changes (verifyEnd_changes _ s) h

theorem step_stepChanges {s t : State} (h : step s = .next t) : stepChanges s t := by
  unfold step at h
  split at h
  · cases h; exact .inl .refl
  · exact stepChanges.after (Changes.asideTo rfl) (exec_stepChanges _ h)

/-! ### The laws that every step keeps -/

/-- Settles O54. -/
theorem slotCountLawsKept : Obligations.SlotCountLawsKept := by
  unfold Obligations.SlotCountLawsKept
  intro s t counts outstanding h
  exact (step_stepChanges h).keep (P := fun s => SlotCountLaw s ∧ OutstandingLaw s)
    (fun _ _ c => c.slotCounts) (fun _ _ c => c.slotCounts) ⟨counts, outstanding⟩

/-- Settles O55. -/
theorem terminalLawKept : Obligations.TerminalLawKept := by
  unfold Obligations.TerminalLawKept
  intro s t law h
  exact (step_stepChanges h).keep (fun _ _ c => c.terminalLaw) (fun _ _ c => c.terminalLaw) law

/-- Settles O56. -/
theorem holderLawKept : Obligations.HolderLawKept := by
  unfold Obligations.HolderLawKept
  intro s t law h
  exact (step_stepChanges h).keep (fun _ _ c => c.holderLaw) (fun _ _ c => c.holderLaw) law

/-- Settles O57: only a commit moves a counter, and a step makes at most one. -/
theorem storeLawKept : Obligations.StoreLawKept := by
  unfold Obligations.StoreLawKept
  intro s t h
  have changes := step_stepChanges h
  exact ⟨changes.keep (fun _ _ c => c.storeLaw) (fun _ _ c => c.storeLaw), changes.counters⟩

/-- Settles O58. -/
theorem scanLawKept : Obligations.ScanLawKept := by
  unfold Obligations.ScanLawKept
  intro s t law h
  exact (step_stepChanges h).keep (fun _ _ c => c.scanLaw) (fun _ _ c => c.scanLaw) law

/-- Settles O59. -/
theorem ringLawsKept : Obligations.RingLawsKept := by
  unfold Obligations.RingLawsKept
  intro s t h
  have changes := step_stepChanges h
  exact ⟨changes.keep (fun _ _ c => c.ringLaw) (fun _ _ c => c.ringLaw),
    changes.keep (fun _ _ c => c.mergingLaw) (fun _ _ c => c.mergingLaw)⟩

/-- Settles O60: the two laws lean on each other, and are kept together. -/
theorem deviceLawsKept : Obligations.DeviceLawsKept := by
  unfold Obligations.DeviceLawsKept
  intro s t device admin h
  exact (step_stepChanges h).keep (P := fun s => DeviceLaw s ∧ AdminLaw s)
    (fun _ _ c law => ⟨c.deviceLaw law.1 law.2, c.adminLaw law.1 law.2⟩)
    (fun _ _ c law => ⟨c.deviceLaw law.1, c.adminLaw law.2⟩) ⟨device, admin⟩

end Sys2Proof.Machine
end

section
/-! A step takes the front of the queue, the laws at reset, and the register window (chapter 11,
sections 11.1 and 12.3). -/

namespace Sys2Proof.Machine

-- Parallel elaboration of the one text reserves more memory than the check allows.
set_option Elab.async false

/-- Settles O1. -/
theorem stepTakesTheFront : Obligations.StepTakesTheFront := by
  unfold Obligations.StepTakesTheFront
  intro c rest s
  refine ⟨fun h => ?_, fun h => ?_⟩ <;> unfold step <;> rw [h]

/-! ### The laws at reset -/

@[simp] theorem reset_slots (i : Fin 16) : State.reset.slots.look i = none := by
  simp [State.reset]

@[simp] theorem reset_sqs (q : Fin 8) : State.reset.sqs.look q = Sq.gone := by simp [State.reset]

@[simp] theorem reset_cqs (c : Fin 8) : State.reset.cqs.look c = Cq.gone := by simp [State.reset]

@[simp] theorem reset_scans (k : Fin 8) : State.reset.scans.look k = Scan.reset := by
  simp [State.reset]

@[simp] theorem reset_countSlots (p : SlotRec → Bool) : State.reset.countSlots p = 0 := by
  unfold State.countSlots
  rw [List.countP_eq_zero]
  intro i _
  simp [State.slotMeets]

theorem reset_ageLaw : AgeLaw State.reset := ⟨List.nodup_nil, fun i => by simp [State.reset]⟩

theorem reset_slotCountLaw : SlotCountLaw State.reset := by
  refine ⟨fun q => ?_, fun q _ => ?_, ?_, fun k => ?_⟩ <;> simp

theorem reset_outstandingLaw : OutstandingLaw State.reset := fun k => by simp [Scan.reset]

theorem reset_terminalLaw : TerminalLaw State.reset := by
  refine ⟨fun t => by simp [State.reset, TermClaim.lawful], fun i r ns h => ?_, nofun⟩
  rw [reset_slots] at h
  cases h

theorem reset_holderLaw : HolderLaw State.reset := by
  refine ⟨fun c => ?_, fun x => ?_⟩
  · cases c <;> simp [State.reset, ByConv.look, ConvRec.reset]
  · cases x <;> rfl

theorem reset_waitingLaw : WaitingLaw State.reset := fun i r h => by
  rw [reset_slots] at h
  cases h

theorem reset_storeLaw : StoreLaw State.reset := by
  refine ⟨fun e => ?_, fun e valid => ?_, nofun⟩
  · simp [State.reset, Cell.unprogrammed]
  · simp [State.reset, Shadow.reset] at valid

theorem reset_scanLaw : ScanLaw State.reset := by
  refine ⟨?_, Nat.zero_le _, fun k => ?_, nofun⟩
  · simp [allEight, Scan.reset]
    rfl
  · simp [Scan.lawful, Scan.reset]

theorem reset_ringLaw : RingLaw State.reset := by
  refine ⟨fun q => ?_, fun c => ?_⟩
  · simp [Sq.lawful, Sq.gone]
  · simp [Cq.lawful, Cq.gone]

theorem reset_mergingLaw : MergingLaw State.reset := by simp [MergingLaw, Cq.waiting, Cq.gone]

theorem reset_adminLaw : AdminLaw State.reset := by
  refine ⟨?_, fun c _ => ?_, fun k h => ?_, nofun⟩
  · simp [Cq.gone]
  · simp [Cq.gone]
  · simp [Scan.reset] at h

theorem reset_deviceLaw : DeviceLaw State.reset := by
  refine ⟨fun _ => ⟨reset_slots, reset_sqs, reset_cqs, fun k => ?_, rfl, rfl⟩, fun _ => ⟨rfl, rfl⟩,
    nofun, fun c h => ?_⟩
  · simp [Scan.reset]
  · cases c <;> cases h

/-- Settles O2. -/
theorem lawsHoldAtReset : Obligations.LawsHoldAtReset :=
  ⟨reset_ageLaw, reset_slotCountLaw, reset_outstandingLaw, reset_terminalLaw, reset_holderLaw,
    reset_waitingLaw, reset_storeLaw, reset_scanLaw, reset_ringLaw, reset_mergingLaw, reset_adminLaw,
    reset_deviceLaw⟩

/-! ### The registers as read (R205) -/

theorem bitAt_getLsbD (a b : Bool) (n : Nat) :
    (BitVec.ofNat 32 (bitAt 0 a + bitAt 1 b)).getLsbD n
      = ((n == 0) && a || (n == 1) && b) := by
  have : ∀ (a b : Bool) (n : Fin 32), (BitVec.ofNat 32 (bitAt 0 a + bitAt 1 b)).getLsbD n
      = ((n.val == 0) && a || (n.val == 1) && b) := by decide
  by_cases h : n < 32
  · exact this a b ⟨n, h⟩
  · rw [BitVec.getLsbD_of_ge _ _ (by omega), beq_false_of_ne (by omega), beq_false_of_ne (by omega)]
    simp

theorem control_reads (s : State) :
    (readReg s .control).getLsbD 0 = s.enable ∧ (readReg s .control).getLsbD 1 = s.intEnable
      ∧ ∀ n, 2 ≤ n → (readReg s .control).getLsbD n = false := by
  unfold readReg
  refine ⟨?_, ?_, fun n hn => ?_⟩ <;> rw [bitAt_getLsbD]
  · simp
  · simp
  · rw [beq_false_of_ne (by omega), beq_false_of_ne (by omega)]
    simp

/-- The bits of STATUS by device state and fault code. -/
theorem status_bits : ∀ (d : Device) (f : FaultCode) (n : Fin 32),
    (3 ≤ n.val ∧ n.val < 8 ∨ 12 ≤ n.val) →
      (BitVec.ofNat 32 (d.code + 2 ^ 8 * f.code)).getLsbD n = false := by
  intro d f
  cases d <;> cases f <;> decide

theorem status_reads (s : State) :
    (readReg s .status).extractLsb' 0 3 = BitVec.ofNat 3 s.device.code
      ∧ (readReg s .status).extractLsb' 8 4 = BitVec.ofNat 4 s.faultCode.code
      ∧ ∀ n, 3 ≤ n → n < 8 ∨ 12 ≤ n → (readReg s .status).getLsbD n = false := by
  dsimp only [readReg]
  generalize s.device = d
  generalize s.faultCode = f
  refine ⟨?_, ?_, fun n h3 h => ?_⟩
  · cases d <;> cases f <;> decide
  · cases d <;> cases f <;> decide
  · by_cases h32 : n < 32
    · exact status_bits d f ⟨n, h32⟩ (h.imp_left fun h8 => ⟨h3, h8⟩)
    · exact BitVec.getLsbD_of_ge _ _ (by omega)

theorem AdminReg.value_reads (r : AdminReg) :
    r.value.extractLsb' 12 20 = r.base ∧ r.value.extractLsb' 0 6 = r.entriesM1
      ∧ r.value.extractLsb' 6 6 = 0 := by
  have hb := r.base.isLt
  have he := r.entriesM1.isLt
  have value : r.value.toNat = r.base.toNat * 4096 + r.entriesM1.toNat := by
    simp only [AdminReg.value, BitVec.toNat_ofNat]
    omega
  refine ⟨?_, ?_, ?_⟩ <;> refine BitVec.eq_of_toNat_eq ?_ <;>
    simp only [BitVec.extractLsb'_toNat, value, Nat.shiftRight_eq_div_pow,
      BitVec.ofNat_eq_ofNat, BitVec.toNat_ofNat] <;>
    omega

theorem identValue_eq : identValue = 0x3B114210#32 := by decide

/-- Every register as it reads (R194, R205). -/
theorem registers_read (s : State) :
    readReg s .ident = 0x3B114210#32
      ∧ (readReg s .control).getLsbD 0 = s.enable ∧ (readReg s .control).getLsbD 1 = s.intEnable
      ∧ (∀ n, 2 ≤ n → (readReg s .control).getLsbD n = false)
      ∧ (readReg s .status).extractLsb' 0 3 = BitVec.ofNat 3 s.device.code
      ∧ (readReg s .status).extractLsb' 8 4 = BitVec.ofNat 4 s.faultCode.code
      ∧ (∀ n, 3 ≤ n → n < 8 ∨ 12 ≤ n → (readReg s .status).getLsbD n = false)
      ∧ (readReg s .adminSq).extractLsb' 12 20 = s.adminSq.base
      ∧ (readReg s .adminSq).extractLsb' 0 6 = s.adminSq.entriesM1
      ∧ (readReg s .adminSq).extractLsb' 6 6 = 0
      ∧ (readReg s .adminCq).extractLsb' 12 20 = s.adminCq.base
      ∧ (readReg s .adminCq).extractLsb' 0 6 = s.adminCq.entriesM1
      ∧ (readReg s .adminCq).extractLsb' 6 6 = 0
      ∧ readReg s .submit = 0 ∧ readReg s .release = 0
      ∧ ∀ n, (readReg s .intPending).getLsbD n = s.intPending.getLsbD n := by
  obtain ⟨enable, intEnable, controlRest⟩ := control_reads s
  obtain ⟨device, code, statusRest⟩ := status_reads s
  obtain ⟨sqBase, sqEntries, sqRest⟩ := s.adminSq.value_reads
  obtain ⟨cqBase, cqEntries, cqRest⟩ := s.adminCq.value_reads
  refine ⟨identValue_eq, enable, intEnable, controlRest, device, code, statusRest, sqBase, sqEntries,
    sqRest, cqBase, cqEntries, cqRest, rfl, rfl, fun n => ?_⟩
  simp only [readReg, BitVec.getLsbD_setWidth]
  by_cases h : n < 32
  · simp [h]
  · simp [h, BitVec.getLsbD_of_ge s.intPending n (by omega)]

/-! ### A write through the window (R194, R166) -/

theorem act_held {f : State → State} {s : State} (h : s.heldInReset = true) : act f s = .next s := by
  simp [act, h]

/-- Two effects that agree on a state are one command there. -/
theorem act_congr {f g : State → State} {s : State} (h : f s = g s) : act f s = act g s := by
  simp [act, h]

/-- No register stands between two multiples of 4 (R194). -/
theorem regAt_between {offset : BitVec 5} (h : offset.toNat % 4 ≠ 0) : regAt offset = none := by
  revert offset
  decide

/-- A write that the window ignores is a write to STATUS. -/
theorem ignored_write {f : State → State} {s : State} (h : f s = s) (w : Word) :
    act f s = exec (.registerWrite 0x08 w) s := act_congr (g := writeWindow 0x08 w) h

theorem writeReg_adminSq {v : Word} {s : State} (h : s.device ≠ .off) :
    writeWindow 0x0C v s = s := if_neg h

theorem writeReg_adminCq {v : Word} {s : State} (h : s.device ≠ .off) :
    writeWindow 0x10 v s = s := if_neg h

/-- Outside READY and HALTING no doorbell is taken (R166). -/
theorem takesDoorbells_eq_works (s : State) : takesDoorbells s = s.device.works := by
  unfold takesDoorbells
  cases s.device <;> rfl

theorem writeSubmit_at_rest {queue : BitVec 4} {tail : Byte} {s : State}
    (h : s.device.works = false) : writeSubmit queue tail s = s := by
  unfold writeSubmit
  rw [takesDoorbells_eq_works, h]
  rfl

theorem writeRelease_at_rest {queue : BitVec 4} {head : Byte} {s : State}
    (h : s.device.works = false) : writeRelease queue head s = s := by
  unfold writeRelease
  rw [takesDoorbells_eq_works, h]
  rfl

theorem writeControlValue_of_clear {v : Word} (h : v.getLsbD 2 = false) (s : State) :
    writeControlValue v s = writeControl (v.getLsbD 0) (v.getLsbD 1) s := by
  unfold writeControlValue
  rw [h]
  rfl

/-- Settles O3. -/
theorem registerWindow : Obligations.RegisterWindow := by
  unfold Obligations.RegisterWindow
  intro v w ie queue index offset s
  refine ⟨fun open_ => ?_, fun held => ⟨by simp [readWindow, held], act_held held⟩, fun between => ?_,
    registers_read s, rfl, fun reset => ?_, fun reset enable => ?_, fun reset enable => ?_, rfl, rfl,
    rfl, rfl, rfl, fun on => ?_, fun rest => ?_⟩
  · simp only [readWindow, open_]
    exact ⟨rfl, rfl, rfl, rfl, rfl, rfl, rfl, rfl⟩
  · have absent := regAt_between between
    exact ⟨by simp [readWindow, absent], ignored_write (by simp [writeWindow, absent]) w⟩
  · exact act_congr (if_pos reset)
  · exact act_congr ((writeControlValue_of_clear reset s).trans (by rw [enable]))
  · exact act_congr ((writeControlValue_of_clear reset s).trans (by rw [enable]))
  · exact ⟨ignored_write (writeReg_adminSq on) w, ignored_write (writeReg_adminCq on) w⟩
  · exact ⟨ignored_write (writeSubmit_at_rest rest) w, ignored_write (writeRelease_at_rest rest) w⟩

end Sys2Proof.Machine
end

section
/-! The commands of a part at rest: ADMIN registers, leaving FAULT, resets, start-up and its end
(chapter 11), and the effects of FAULT. -/

namespace Sys2Proof.Machine

-- Parallel elaboration of the one text reserves more memory than the check allows.
set_option Elab.async false

/-! ### Frames: what stands from `s` stands through the steps after an effect on it -/

section frames

variable {s u t : State}

theorem slotsStand_via {l : List (Fin 16)} (h : ∀ i, i ∉ l → u.slots.look i = s.slots.look i)
    (k : slotsStand [] u t) : slotsStand l s t := fun i r hi hr hf =>
  k i r (by simp) (by rw [h i hi]; exact hr) hf

theorem scansStand_via {l : List (Fin 8)} (h : ∀ k, k ∉ l → u.scans.look k = s.scans.look k)
    (k : scansStand [] u t) : scansStand l s t := fun j hj => by
  rw [← h j hj]
  exact k j (by simp)

theorem sqsStand_via {l : List (Fin 8)} (h : ∀ q, q ∉ l → u.sqs.look q = s.sqs.look q)
    (k : sqsStand [] u t) : sqsStand l s t := fun q hq live => by
  rw [k q (by simp) (by rw [h q hq]; exact live), h q hq]

theorem cqsGrow_via {l : List (Fin 8)} (h : ∀ c, c ∉ l → u.cqs.look c = s.cqs.look c)
    (k : cqsGrow [] u t) : cqsGrow l s t := fun c hc => by
  rw [← h c hc]
  exact k c (by simp)

theorem cqsGrow_mono {l m : List (Fin 8)} (hs : ∀ c, c ∈ l → c ∈ m) (h : cqsGrow l s t) :
    cqsGrow m s t := fun c hc => h c fun e => hc (hs c e)

end frames

/-! ### At rest -/

/-- In OFF a command's effect is its event, if nothing is at work after it. -/
theorem act_off {f : State → State} {s : State} (h : s.heldInReset = false)
    (hd : (f s).device = .off ∨ (f s).device = .fault) (e : (f s).empty) : act f s = .next (f s) := by
  rw [act_work h, settle_off hd e]

/-- An empty state stays empty when its control and its front end change. -/
theorem State.empty.of_eq {s t : State} (h : s.empty) (hslots : t.slots = s.slots)
    (hsqs : t.sqs = s.sqs) (hcqs : t.cqs = s.cqs) (hscans : t.scans = s.scans) (hax : t.ax = s.ax) :
    t.empty := by
  unfold State.empty
  rw [hslots, hsqs, hcqs, hscans, hax]
  exact h

theorem Device.rests {d : Device} (h : d = .off ∨ d = .fault ∨ d = .starting) : d.works = false := by
  rcases h with rfl | rfl | rfl <;> rfl

/-- Settles O4. -/
theorem writesAtRest : Obligations.WritesAtRest := by
  unfold Obligations.WritesAtRest
  intro v ie queue index s reset law
  refine ⟨fun off => ?_, fun fault => ?_⟩
  · have rest : s.device.works = false := Device.rests (.inl off)
    have empty : s.empty := law.empty rest
    have ignored : ∀ f : State → State, f s = s → act f s = .next s := fun f hf => by
      have := act_off (f := f) reset (by rw [hf]; exact .inl off) (by rw [hf]; exact empty)
      rw [this, hf]
    have sq : writeWindow 0x0C v s = { s with adminSq := adminRegOf v } := if_pos off
    have cq : writeWindow 0x10 v s = { s with adminCq := adminRegOf v } := if_pos off
    refine ⟨?_, ?_, ignored _ rfl, ignored _ rfl, ignored _ (writeSubmit_at_rest rest),
      ignored _ (writeRelease_at_rest rest)⟩
    · refine (act_off (f := writeWindow 0x0C v) reset ?_ ?_).trans (congrArg _ sq)
      · rw [sq]; exact .inl off
      · rw [sq]; exact empty.of_eq rfl rfl rfl rfl rfl
    · refine (act_off (f := writeWindow 0x10 v) reset ?_ ?_).trans (congrArg _ cq)
      · rw [cq]; exact .inl off
      · rw [cq]; exact empty.of_eq rfl rfl rfl rfl rfl
  · have empty : s.empty := law.empty (Device.rests (.inr (.inl fault)))
    have left : writeControl false ie s = { s with enable := false, intEnable := ie, device := .off } := by
      simp [writeControl, fault]
    refine (act_off (f := writeControl false ie) reset ?_ ?_).trans (congrArg _ left)
    · rw [left]; exact .inl rfl
    · rw [left]; exact empty.of_eq rfl rfl rfl rfl rfl

/-! ### Resets (R201, R202) -/

theorem cutWrite_pending (s : State) : (cutWrite s).pending = s.pending := by
  unfold cutWrite
  repeat' split
  all_goals rfl

theorem cutWrite_adminRegs (s : State) :
    (cutWrite s).adminSq = s.adminSq ∧ (cutWrite s).adminCq = s.adminCq := by
  unfold cutWrite
  repeat' split
  all_goals exact ⟨rfl, rfl⟩

/-- A pulse cut off changes the image of its entry alone, and no counter (R134). -/
theorem cutWrite_cells (s : State) (e : Fin 16) :
    ((cutWrite s).cells.look e).counter = (s.cells.look e).counter
      ∧ ((∀ w, s.writeCtx = some w → w.phase = .pulse → w.entry ≠ e) →
          (cutWrite s).cells.look e = s.cells.look e) := by
  unfold cutWrite
  split
  · exact ⟨rfl, fun _ => rfl⟩
  · rename_i w hw
    split
    · rename_i hp
      refine ⟨?_, fun h => ?_⟩
      · simp only [Table.look_put]
        split
        · rename_i h; rw [h]
        · rfl
      · exact Table.look_put_ne _ _ _ _ (Ne.symm (h w hw hp))
    · exact ⟨rfl, fun _ => rfl⟩

/-- Held in reset, the part takes no command but those of the pin (R202). -/
theorem exec_held {s : State} (h : s.heldInReset = true) (c : Instr) (h1 : c ≠ .powerOnReset)
    (h2 : c ≠ .rstNHeldLow) : exec c s = .next s := by
  cases c with
  | powerOnReset => exact absurd rfl h1
  | rstNHeldLow => exact absurd rfl h2
  | _ => exact act_held h

theorem reset_empty {t : State} (hslots : t.slots = State.reset.slots) (hsqs : t.sqs = State.reset.sqs)
    (hcqs : t.cqs = State.reset.cqs) (hscans : t.scans = State.reset.scans)
    (hax : t.ax = State.reset.ax) : t.empty :=
  (reset_deviceLaw.empty rfl).of_eq hslots hsqs hcqs hscans hax

/-- Settles O6. -/
theorem resetsLeave : Obligations.ResetsLeave := by
  unfold Obligations.ResetsLeave
  intro s
  have pending := cutWrite_pending s
  obtain ⟨adminSq, adminCq⟩ := cutWrite_adminRegs s
  refine ⟨(cutWrite s).cells, (cutWrite s).freeTick, ?_, ?_, fun reset => ?_, fun c held => exec_held held c,
    fun e => (cutWrite_cells s e).1, fun e => (cutWrite_cells s e).2⟩
  · rw [← pending]; rfl
  · rw [← pending]; rfl
  · rw [← pending, ← adminSq, ← adminCq]
    exact act_off (f := softResetState) reset (.inl rfl) (reset_empty rfl rfl rfl rfl rfl)

/-! ### FAULT (R200) -/

theorem enterFault_empty (code : FaultCode) (s : State) : (enterFault code s).empty := by
  refine ⟨fun i => ?_, fun q => ?_, fun c => ?_, fun k => ?_, rfl⟩
  · simp [enterFault]
  · simp [enterFault]
  · simp [enterFault]
  · simp only [enterFault, Table.look_build, Scan.faulted]
    generalize (cutConverter .cb (cutConverter .ca (cutWrite s))).scans.look k = sc
    cases h : sc.state <;> simp [h, Scan.loadedNow]

theorem cutWrite_kept (s : State) :
    (cutWrite s).convs = s.convs ∧ (cutWrite s).scans = s.scans ∧ (cutWrite s).shadows = s.shadows
      ∧ (cutWrite s).templates = s.templates ∧ (cutWrite s).intEnable = s.intEnable
      ∧ (cutWrite s).enable = s.enable := by
  unfold cutWrite
  repeat' split
  all_goals exact ⟨rfl, rfl, rfl, rfl, rfl, rfl⟩

/-- A scan after FAULT (R155). -/
theorem Scan.faulted_keeps (k : Scan) :
    k.faulted.outstanding = 0
      ∧ (k.state = .running ∨ k.state = .stopping →
          k.faulted.state = .loaded ∧ k.faulted.counting = false ∧ k.faulted.nextTemplate = k.count)
      ∧ k.faulted.count = k.count ∧ k.faulted.passNumber = k.passNumber
      ∧ k.faulted.overruns = k.overruns := by
  unfold Scan.faulted
  split
  · exact ⟨rfl, fun _ => ⟨rfl, rfl, rfl⟩, rfl, rfl, rfl⟩
  · rename_i h
    exact ⟨rfl, fun e => absurd e h, rfl, rfl, rfl⟩

/-- Everything that FAULT does (R200). -/
theorem enterFault_effects (code : FaultCode) (s : State) : faultEffects code s (enterFault code s) := by
  obtain ⟨convs, scans, shadows, templates, intEnable, -⟩ := cutWrite_kept s
  obtain ⟨adminSq, adminCq⟩ := cutWrite_adminRegs s
  refine ⟨rfl, rfl, rfl, (enterFault_empty code s).1, rfl, fun q => ?_, fun c => ?_, rfl, rfl,
    cutWrite_writeCtx s, fun x => ?_, fun x => ?_, fun c => ?_, fun e => (cutWrite_cells s e).1,
    fun k => ?_, shadows, templates, intEnable, adminSq, adminCq, cutWrite_pending s⟩
  · rw [(enterFault_empty code s).2.1 q]; rfl
  · rw [(enterFault_empty code s).2.2.1 c]
    exact ⟨rfl, rfl, rfl, rfl⟩
  · simp [enterFault]
  · cases x <;> exact ⟨rfl, rfl⟩
  · have : s.convs = (cutWrite s).convs := convs.symm
    rw [this]
    cases c <;> exact ⟨rfl, rfl, rfl, rfl, rfl, rfl, rfl⟩
  · have : s.scans = (cutConverter .cb (cutConverter .ca (cutWrite s))).scans := scans.symm
    rw [this]
    simp only [enterFault, Table.look_build]
    exact Scan.faulted_keeps _

theorem enterFault_enable (code : FaultCode) (s : State) : (enterFault code s).enable = s.enable :=
  (cutWrite_kept s).2.2.2.2.2

/-- A command that sends the device to FAULT ends there. -/
theorem act_fault {f : State → State} {s u : State} {code : FaultCode} (h : s.heldInReset = false)
    (hf : f s = enterFault code u) : act f s = .next (enterFault code u) := by
  rw [← hf]
  refine act_off h ?_ ?_ <;> rw [hf]
  · exact .inr rfl
  · exact enterFault_empty code u

/-- Settles O12. -/
theorem adminBusErrorsEnterFault : Obligations.AdminBusErrorsEnterFault := by
  unfold Obligations.AdminBusErrorsEnterFault
  intro s reset
  refine ⟨fun ⟨index, hax⟩ => ?_, fun writing => ?_⟩
  · refine ⟨_, act_fault (code := .adminSqFetchError) (u := s) reset ?_, enterFault_effects _ s,
      enterFault_enable _ s, rfl⟩
    unfold adminFetchError
    rw [hax]
  · refine ⟨_, act_fault (code := .adminCqWriteError) (u := s) reset ?_, enterFault_effects _ s,
      enterFault_enable _ s, rfl⟩
    have begun : (s.cqs.look 0).writing.isNone = false := by
      cases h : (s.cqs.look 0).writing <;> simp_all
    simp [writeError, begun]

/-! ### Start-up (R196, R197, R99) -/

theorem checks_none : ∀ c, ({ ca := .notDue, cb := .notDue } : ByConv Check).look c = .notDue := by
  intro c
  cases c <;> rfl

/-- While no check is called for, the steps of STARTING do nothing. -/
theorem settle_starting_waits {s : State} (h : s.device = .starting) (e : s.empty)
    (hc : s.checks = { ca := .notDue, cb := .notDue }) : settle s = s := by
  have waits : ∀ c, startCheck c s = s := fun c => by
    simp [startCheck, hc, checks_none]
  rw [settle_starting h e, checkStage, waits, waits]
  simp [startUpStage, hc]

/-- Settles O7. -/
theorem enableStartsUp : Obligations.EnableStartsUp := by
  unfold Obligations.EnableStartsUp
  intro ie s reset off disabled law
  have empty : s.empty := law.empty (Device.rests (.inl off))
  have checks : s.checks = { ca := .notDue, cb := .notDue } := (law.2.1 (by rw [off]; nofun)).2
  have begun : writeControl true ie s = enterStarting { s with enable := true, intEnable := ie } := by
    simp [writeControl, off, disabled]
  refine ⟨fun sq cq => ?_, fun bad => ?_⟩
  · have started : writeControl true ie s = { s with
        device := .starting, faultCode := .noFault, enable := true, intEnable := ie,
        loading := true } := by
      rw [begun]
      unfold enterStarting
      rw [if_neg (not_or.2 ⟨sq, cq⟩), ← checks]
    refine (act_work (f := writeControl true ie) reset).trans (congrArg _ (Eq.trans ?_ started))
    refine settle_starting_waits ?_ ?_ ?_ <;> rw [started]
    · exact empty.of_eq rfl rfl rfl rfl rfl
    · exact checks
  · have faulted : writeControl true ie s = enterFault .badAdminConfig
        { s with enable := true, intEnable := ie, device := .starting, faultCode := .noFault } := by
      rw [begun]
      exact if_pos bad
    refine ⟨_, act_fault reset faulted, ?_, ?_⟩
    · exact enterFault_effects .badAdminConfig
        { s with enable := true, intEnable := ie, device := .starting, faultCode := .noFault }
    · rw [enterFault_enable]

/-! ### The start-up checks (R99, R120) -/

/-- The converter as its start-up check begins (R99). -/
def ConvRec.checked (r : ConvRec) : ConvRec :=
  { r with
    state := .settling, serving := .startUp, currentRange := .g0,
    phaseTimer := some (if r.currentRange = .g0 then 200 else 700) }

theorem startCheck_begins {c : Conv} {s : State} (hd : s.device = .starting)
    (hc : s.checks.look c = .due) (hi : (s.convs.look c).state = .idle) :
    startCheck c s = { s with
      checks := s.checks.put c .running
      conns := s.conns.put c
        { plus := .refChannel, minus := .agnd, driveHigh := none, driveLow := none }
      convs := s.convs.put c (s.convs.look c).checked } := by
  have time : matrixSettle + (if (s.convs.look c).currentRange = .g0 then 0 else rangeSettle)
      = if (s.convs.look c).currentRange = .g0 then 200 else 700 := by
    split <;> rfl
  unfold startCheck
  dsimp only
  rw [if_pos ⟨hd, hc, hi⟩, time]
  rfl

theorem startCheck_waits {c : Conv} {s : State}
    (h : s.checks.look c ≠ .due ∨ (s.convs.look c).state ≠ .idle) : startCheck c s = s := by
  unfold startCheck
  exact if_neg fun ⟨_, hc, hi⟩ => h.elim (fun n => n hc) (fun n => n hi)

/-- The other converter's check leaves a converter as it stood. -/
theorem startCheck_other {c d : Conv} (h : c ≠ d) (s : State) :
    (startCheck d s).checks.look c = s.checks.look c
      ∧ (startCheck d s).convs.look c = s.convs.look c
      ∧ (startCheck d s).conns.look c = s.conns.look c := by
  unfold startCheck
  dsimp only
  split
  · exact ⟨ByConv.look_put_ne _ _ _ _ h, ByConv.look_put_ne _ _ _ _ h, ByConv.look_put_ne _ _ _ _ h⟩
  · exact ⟨rfl, rfl, rfl⟩

/-- Everything but the checks, the connections and the converters stands through the start of a
check. -/
theorem startCheck_eq (c : Conv) (s : State) : ∃ checks conns convs,
    startCheck c s = { s with checks := checks, conns := conns, convs := convs } := by
  unfold startCheck
  dsimp only
  split
  · exact ⟨_, _, _, rfl⟩
  · exact ⟨s.checks, s.conns, s.convs, rfl⟩

theorem checkStage_eq (s : State) : checkStage s = { s with
    checks := (checkStage s).checks, conns := (checkStage s).conns,
    convs := (checkStage s).convs } := by
  obtain ⟨_, _, _, first⟩ := startCheck_eq .ca s
  obtain ⟨_, _, _, second⟩ := startCheck_eq .cb (startCheck .ca s)
  unfold checkStage
  rw [second, first]

/-- Each converter's part of the check stage is its own. -/
theorem checkStage_look (s : State) (c : Conv) :
    (checkStage s).checks.look c = (startCheck c s).checks.look c
      ∧ (checkStage s).convs.look c = (startCheck c s).convs.look c
      ∧ (checkStage s).conns.look c = (startCheck c s).conns.look c := by
  unfold checkStage
  cases c with
  | ca => exact startCheck_other (by nofun) _
  | cb =>
    obtain ⟨h1, h2, h3⟩ := startCheck_other (c := .cb) (d := .ca) (by nofun) s
    have dev : (startCheck .ca s).device = s.device := (startCheck_parts .ca s).1
    by_cases h : s.device = .starting ∧ s.checks.look .cb = .due ∧ (s.convs.look .cb).state = .idle
    · rw [startCheck_begins (c := .cb) (s := s) h.1 h.2.1 h.2.2,
        startCheck_begins (c := .cb) (by rw [dev]; exact h.1) (by rw [h1]; exact h.2.1)
          (by rw [h2]; exact h.2.2)]
      simp [h2]
    · have one : startCheck .cb s = s := if_neg h
      have two : startCheck .cb (startCheck .ca s) = startCheck .ca s := by
        refine if_neg ?_
        rw [dev, h1, h2]
        exact h
      rw [one, two]
      exact ⟨h1, h2, h3⟩

theorem startUpStage_waits {s : State} {c : Conv} (h : s.checks.look c ≠ .ended) :
    startUpStage s = s := by
  unfold startUpStage
  refine if_neg fun ⟨_, e⟩ => h ?_
  rw [e]
  cases c <;> rfl

/-- While a check has not ended, the steps of STARTING are the starts of the checks. -/
theorem settle_checks {s : State} {c : Conv} (h : s.device = .starting) (e : s.empty)
    (hc : s.checks.look c ≠ .ended) : settle s = checkStage s := by
  rw [settle_starting h e, startUpStage_waits (c := c)]
  rw [(checkStage_look s c).1]
  by_cases hb : s.checks.look c = .due ∧ (s.convs.look c).state = .idle
  · rw [startCheck_begins h hb.1 hb.2]
    simp
  · rw [startCheck_waits (Decidable.not_and_iff_or_not.1 hb)]
    exact hc

/-- The checks of the loaded shadow entry (R116, R117, R120). -/
theorem loaded_valid_iff (cell : Cell) (e : Fin 16) :
    (cell.loaded e.val).valid = true ↔
      cell.image.crc = crcOf cell.image.wordA cell.image.wordB ∧ cell.counter ≠ 0
        ∧ (e.val ≤ 7 → -1000000 ≤ cell.image.wordA.toInt ∧ cell.image.wordA.toInt ≤ 1000000
          ∧ 536870912 ≤ cell.image.wordB.toNat ∧ cell.image.wordB.toNat ≤ 2147483647)
        ∧ (8 ≤ e.val → cell.image.wordB = 0)
        ∧ (14 ≤ e.val → -12500000 ≤ cell.image.wordA.toInt ∧ cell.image.wordA.toInt ≤ 12500000) := by
  have zero : cell.image.wordB.toNat = 0 ↔ cell.image.wordB = 0 :=
    ⟨fun h => BitVec.eq_of_toNat_eq (by simpa using h), fun h => by rw [h]; rfl⟩
  simp only [Cell.loaded, CalImage.consistent, wordAInRange, wordBInRange, gainInRange,
    Bool.and_eq_true, beq_iff_eq, bne_iff_ne, and_assoc]
  by_cases low : e.val ≤ 7
  · simp [low, show ¬ 8 ≤ e.val by omega, show ¬ 14 ≤ e.val by omega, and_assoc]
  · by_cases mid : e.val ≤ 13
    · simp [low, mid, show 8 ≤ e.val by omega, show ¬ 14 ≤ e.val by omega, zero]
    · simp [low, mid, show 8 ≤ e.val by omega, show 14 ≤ e.val by omega, zero, and_comm]

/-- Settles O9. -/
theorem startUpChecks : Obligations.StartUpChecks := by
  unfold Obligations.StartUpChecks
  intro s reset starting law
  have empty : s.empty := law.empty (Device.rests (.inr (.inr starting)))
  refine ⟨fun loading => ?_, fun c due idle => ?_⟩
  · have loaded : loadDone s = { s with
        loading := false
        shadows := Table.build fun e => (s.cells.look e).loaded e.val
        checks := { ca := .due, cb := .due } } := if_pos ⟨starting, loading⟩
    have run := act_work (f := loadDone) reset
    obtain ⟨u, hu⟩ : ∃ u, loadDone s = u := ⟨_, rfl⟩
    rw [hu] at run
    rw [loaded] at hu
    have due : ∀ c, u.checks.look c = .due := by
      subst hu
      intro c
      cases c <;> rfl
    have convs : u.convs = s.convs := by subst hu; rfl
    have conns : u.conns = s.conns := by subst hu; rfl
    have device : u.device = .starting := by subst hu; exact starting
    rw [settle_checks (c := .ca) device (empty.of_eq (by rw [← hu]) (by rw [← hu]) (by rw [← hu])
      (by rw [← hu]) (by rw [← hu])) (by rw [due]; nofun)] at run
    refine ⟨_, run, ?_⟩
    have frame := checkStage_eq u
    refine ⟨?_, ?_, ?_, ?_, fun e => ?_, fun c idle => ?_, fun c busy => ?_, ?_, ?_, ?_⟩
    · rw [frame]; exact device
    · rw [frame]; subst hu; rfl
    · rw [frame]; subst hu; rfl
    · rw [frame]; subst hu; rfl
    · have shadow : (checkStage u).shadows.look e = (s.cells.look e).loaded e.val := by
        rw [frame]
        subst hu
        exact Table.look_build _ e
      rw [shadow]
      exact ⟨rfl, rfl, rfl, loaded_valid_iff _ e⟩
    · obtain ⟨h1, h2, h3⟩ := checkStage_look u c
      rw [h1, h2, h3, startCheck_begins device (due c) (by rw [convs]; exact idle), convs]
      simp [ConvRec.checked]
    · obtain ⟨h1, h2, h3⟩ := checkStage_look u c
      rw [h1, h2, h3, startCheck_waits (.inr (by rw [convs]; exact busy)), convs, conns]
      exact ⟨due c, rfl, rfl⟩
    · rw [frame]; subst hu; rfl
    · rw [frame]; subst hu; rfl
    · rw [frame]; subst hu; rfl
  · have begun := startCheck_begins starting due idle
    have run := act_work (f := startCheck c) reset
    have device : (startCheck c s).device = .starting := by rw [begun]; exact starting
    have running : (startCheck c s).checks.look c = .running := by rw [begun]; simp
    have settling : ((startCheck c s).convs.look c).state = .settling := by
      rw [begun]; simp [ConvRec.checked]
    obtain ⟨-, slots, sqs, cqs, scans, ax⟩ := startCheck_parts c s
    rw [settle_checks (c := c) device (empty.of_eq slots sqs cqs scans ax)
      (by rw [running]; nofun)] at run
    refine ⟨_, run, ?_⟩
    obtain ⟨h1, h2, h3⟩ := checkStage_look (startCheck c s) c
    have still : startCheck c (startCheck c s) = startCheck c s :=
      startCheck_waits (.inl (by rw [running]; nofun))
    rw [still] at h1 h2 h3
    have frame := (checkStage_eq (startCheck c s))
    refine ⟨?_, ?_, ?_, ?_, ?_, ?_, ?_, ?_, ?_⟩
    · rw [frame]; exact device
    · rw [h1, running]
    · rw [h2, begun]; simp [ConvRec.checked]
    · rw [h3, begun]; simp
    · rw [frame, begun]
    · rw [frame, begun]
    · rw [frame, begun]
    · rw [frame, begun]; rfl
    · rw [frame, begun]

end Sys2Proof.Machine
end

section
/-! INT_N and its bits (R177), the end of start-up (R197) and the discard step (R199). -/

namespace Sys2Proof.Machine

-- Parallel elaboration of the one text reserves more memory than the check allows.
set_option Elab.async false

/-! ### INT_N (R175 to R177) -/

theorem mem_allEight : ∀ c, c ∈ allEight := by decide

theorem intAsserted_iff (s : State) : intAsserted s = true ↔ s.intEnable = true
    ∧ ∃ d, s.intPending.getLsbD d.val = true ∧ (s.cqs.look d).intEnable = true := by
  simp [intAsserted, mem_allEight]

theorem cqGrows_intEnable {d d' : Cq} (h : cqGrows d d') : d'.intEnable = d.intEnable := by
  obtain ⟨same, -⟩ := h
  rw [same]

theorem setPendingBit_getLsbD (c : Fin 8) (s : State) {n : Nat} (h : n < 8) :
    (setPendingBit c s).intPending.getLsbD n = (s.intPending.getLsbD n || decide (n = c.val)) := by
  have one : ∀ (c n : Fin 8), (1#8 <<< c.val).getLsbD n.val = decide (n.val = c.val) := by decide
  simp only [setPendingBit, BitVec.getLsbD_or, one c ⟨n, h⟩]

theorem clearPending_getLsbD (bits : Byte) (s : State) {n : Nat} (h : n < 8) :
    (clearPending bits s).intPending.getLsbD n = (s.intPending.getLsbD n && !bits.getLsbD n) := by
  simp [clearPending, h]

/-- A CONTROL write at work that leaves ENABLE as it is sets INT_ENABLE alone (R195). -/
theorem writeControl_same {s : State} (ie : Bool) (h : s.atWork) :
    writeControl s.enable ie s = { s with intEnable := ie } := by
  obtain ⟨-, hd | ⟨hd, -⟩⟩ := h <;> simp [writeControl, hd]

/-- A command whose effect on `s` is `u`. -/
theorem act_to {f : State → State} {s u : State} (h : s.heldInReset = false) (hf : f s = u) :
    act f s = .next (settle u) := by rw [act_work h, hf]

/-- Settles O5. -/
theorem interruptBits : Obligations.InterruptBits := by
  unfold Obligations.InterruptBits
  intro v bits c s work
  have reset := work.1
  refine ⟨intAsserted_iff s, fun keeps same => ?_, ?_, fun running => ?_⟩
  · obtain ⟨u, hu⟩ : ∃ u : State, u = { s with intEnable := v.getLsbD 1 } := ⟨_, rfl⟩
    have wrote : writeControlValue v s = u := by
      rw [writeControlValue_of_clear keeps, same, writeControl_same _ work, hu]
    have works : u.device = .ready ∨ u.device = .halting ∧ u.heldBack := by
      rw [hu]
      exact work.2
    have aside := settle_aside_work works
    have grow := settle_cqsGrow works
    refine ⟨_, act_to reset wrote, aside.trans (by rw [hu]),
      slotsStand_via (u := u) (fun i _ => by rw [hu]) (settle_slotsStand works),
      scansStand_via (u := u) (fun i _ => by rw [hu]) (settle_scansStand works),
      sqsStand_via (u := u) (fun i _ => by rw [hu]) (settle_sqsStand works),
      cqsGrow_via (u := u) (fun i _ => by rw [hu]) grow, ?_⟩
    have ints : ∀ d, ((settle u).cqs.look d).intEnable = (s.cqs.look d).intEnable := fun d =>
      (cqGrows_intEnable (grow d (by simp))).trans (by rw [hu])
    simp only [intAsserted_iff, aside_intEnable aside, aside_intPending aside, ints]
    rw [hu]
  · obtain ⟨u, hu⟩ : ∃ u : State, u = clearPending bits s := ⟨_, rfl⟩
    have works : u.device = .ready ∨ u.device = .halting ∧ u.heldBack := by
      rw [hu]
      exact work.2
    have aside := settle_aside_work works
    have pending := aside_intPending aside
    refine ⟨_, act_to reset hu.symm, ?_, fun n hn => ?_,
      slotsStand_via (u := u) (fun i _ => by rw [hu]; rfl) (settle_slotsStand works),
      scansStand_via (u := u) (fun i _ => by rw [hu]; rfl) (settle_scansStand works),
      sqsStand_via (u := u) (fun i _ => by rw [hu]; rfl) (settle_sqsStand works),
      cqsGrow_via (u := u) (fun i _ => by rw [hu]; rfl) (settle_cqsGrow works)⟩
    · rw [aside, pending, hu]
      rfl
    · rw [pending, hu]
      exact clearPending_getLsbD bits s hn
  · obtain ⟨u, hu⟩ : ∃ u, u = setPendingBit c
        (s.setCq c { s.cqs.look c with unsignalled := 0, timer := none }) := ⟨_, rfl⟩
    have expired : timerExpiry c s = u := hu ▸ if_pos running
    have works : u.device = .ready ∨ u.device = .halting ∧ u.heldBack := by
      subst hu
      exact work.2
    have aside := settle_aside_work works
    have pending := aside_intPending aside
    have grow := settle_cqsGrow works
    refine ⟨_, act_to reset expired, ?_,
      fun n hn => ?_, ?_, ?_, slotsStand_via (u := u) (fun i _ => by subst hu; rfl) (settle_slotsStand works),
      scansStand_via (u := u) (fun i _ => by subst hu; rfl) (settle_scansStand works),
      sqsStand_via (u := u) (fun i _ => by subst hu; rfl) (settle_sqsStand works)⟩
    · rw [aside, pending]
      subst hu
      rfl
    · rw [pending]
      subst hu
      exact setPendingBit_getLsbD c _ hn
    · have ring : u.cqs.look c = { s.cqs.look c with unsignalled := 0, timer := none } := by
        subst hu
        exact Table.look_put_same _ _ _
      rw [← ring]
      exact grow c (by simp)
    · refine cqsGrow_via (fun d hd => ?_) grow
      subst hu
      exact Table.look_put_ne _ _ _ _ (by simpa using hd)

/-! ### A quiet READY -/

/-- No slot, no running scan, no command, no entry and no record: nothing that a step could take. -/
def State.quiet (s : State) : Prop :=
  (∀ i, s.slots.look i = none) ∧ (∀ q, (s.sqs.look q).head = (s.sqs.look q).tail)
    ∧ (∀ c, (s.cqs.look c).list = [])
    ∧ (∀ k, (s.scans.look k).state = .empty ∨ (s.scans.look k).state = .loaded) ∧ s.ax = .idle

theorem fenceRelease_none {i : Fin 16} {s : State} (h : s.slots.look i = none) :
    fenceRelease i s = s := by simp [fenceRelease, fenceOpen, h]

theorem fenceStage_none {s : State} (h : ∀ i, s.slots.look i = none) : fenceStage s = s :=
  foldl_fixed _ s (fun i => fenceRelease_none (h i)) _

theorem passComplete_rest {k : Fin 8} {s : State}
    (h : (s.scans.look k).state = .empty ∨ (s.scans.look k).state = .loaded) :
    passComplete k s = s := by
  unfold passComplete
  dsimp only
  split
  · rfl
  · rcases h with h | h <;> rw [h]

theorem expire_rest {k : Fin 8} {s : State} (h : (s.scans.look k).state ≠ .running) :
    expire k s = s := if_neg fun e => h e.2.1

theorem deleteSqStage_idle {s : State} (h : s.ax = .idle) : deleteSqStage s = s := by
  simp [deleteSqStage, State.axWork, h]

theorem settle_quiet {s : State} (h : s.device = .ready) (q : s.quiet) : settle s = s := by
  obtain ⟨slots, rings, lists, scans, ax⟩ := q
  have eligibles : ∀ n, eligible s n = false := fun n => by
    unfold eligible
    split
    · simp [sqEligible, rings]
    · rename_i k _
      rcases scans k with e | e <;> simp [scanEligible, e]
  have passes : passStage s = s := foldl_fixed _ s (fun k => passComplete_rest (scans k)) _
  have expiries : expiryStage s = s := foldl_fixed _ s
    (fun k => expire_rest (by rcases scans k with e | e <;> rw [e] <;> nofun)) _
  have fetch : adminFetchStage s = s := if_neg fun e => e.2.2.2 (rings 0)
  rw [settle_of_ready h, fenceStage_none slots, passes, deleteSqStage_idle ax, expiries, fillStage,
    fills_none eligibles, fetch, empty_writes lists]

theorem quiet_enterReady {s : State} (e : s.empty) : (enterReady s).quiet := by
  obtain ⟨slots, sqs, cqs, scans, -⟩ := e
  refine ⟨slots, fun q => ?_, fun c => ?_, scans, rfl⟩
  · simp only [enterReady, Table.look_put]
    split
    · rfl
    · rw [sqs]; rfl
  · simp only [enterReady, Table.look_put]
    split
    · rfl
    · rw [cqs]; rfl

/-- Settles O10. -/
theorem startUpEndEntersReady : Obligations.StartUpEndEntersReady := by
  unfold Obligations.StartUpEndEntersReady
  intro s reset starting law ended
  have empty : s.empty := law.empty (Device.rests (.inr (.inr starting)))
  have ax : s.ax = .idle := empty.2.2.2.2
  refine ⟨fun enabled => ?_, fun disabled => ?_⟩
  · have enters : startUpStage s = enterReady s := by simp [startUpStage, starting, ended, enabled]
    refine (act_work (f := startUpStage) reset).trans (congrArg _ ?_)
    rw [enters, settle_quiet rfl (quiet_enterReady empty)]
    unfold enterReady
    rw [← ax]
    rfl
  · have leaves : startUpStage s
        = { s with device := .off, checks := { ca := .notDue, cb := .notDue } } := by
      simp [startUpStage, starting, ended, disabled]
    refine (act_off (f := startUpStage) reset ?_ ?_).trans (congrArg _ leaves) <;> rw [leaves]
    · exact .inl rfl
    · exact empty.of_eq rfl rfl rfl rfl rfl

/-! ### The discard step (R199) -/

/-- While every ring is NONE and the AX is IDLE, a pass completion touches the scans alone. -/
theorem passComplete_drained {k : Fin 8} {s : State} (hc : ∀ c, s.cqs.look c = Cq.gone)
    (hax : s.ax = .idle) : passComplete k s = { s with scans := (passComplete k s).scans } := by
  have joins : ∀ (st : ScanDoneStatus) (u : State), u.cqs = s.cqs → joinScanDone k st u = u := by
    intro st u e
    unfold joinScanDone
    dsimp only
    split
    · unfold joinList
      rw [e, hc]
      rfl
    · rfl
  have stops : ∀ u : State, u.ax = s.ax → completeStop k u = u := fun u e => by
    simp [completeStop, State.axWork, e, hax]
  unfold passComplete
  dsimp only
  split
  · rfl
  · split
    · split
      · rw [joins _ (s.setScan k _) rfl]; rfl
      · rfl
    · rw [joins _ (s.setScan k _) rfl, stops (s.setScan k _) rfl]; rfl
    · rfl

theorem passStage_drained {s : State} (hc : ∀ c, s.cqs.look c = Cq.gone) (hax : s.ax = .idle) :
    passStage s = { s with scans := (passStage s).scans } := by
  have : ∀ (l : List (Fin 8)) (u : State), (∀ c, u.cqs.look c = Cq.gone) → u.ax = .idle →
      l.foldl (fun s k => passComplete k s) u
        = { u with scans := (l.foldl (fun s k => passComplete k s) u).scans } := by
    intro l
    induction l with
    | nil => exact fun _ _ _ => rfl
    | cons k l ih =>
      intro u hc hax
      rw [List.foldl_cons]
      have one := passComplete_drained (k := k) hc hax
      generalize (passComplete k u).scans = x at one
      rw [one]
      exact ih _ hc hax
  exact this _ s hc hax

theorem expire_off {k : Fin 8} {s : State} (h : s.device ≠ .ready) : expire k s = s :=
  if_neg fun e => h e.1

/-- Once everything is discarded, the steps of OFF, FAULT and of a beginning STARTING touch the scans
alone, and of those none but a STOPPING one. -/
theorem settle_drained {s : State}
    (hd : s.device = .off ∨ s.device = .fault
      ∨ s.device = .starting ∧ s.checks = { ca := .notDue, cb := .notDue })
    (hs : ∀ i, s.slots.look i = none) (hc : ∀ c, s.cqs.look c = Cq.gone) (hax : s.ax = .idle) :
    settle s = { s with scans := (passStage s).scans } := by
  have ready : s.device ≠ .ready := by rcases hd with h | h | ⟨h, -⟩ <;> rw [h] <;> nofun
  have halting : s.device ≠ .halting := by rcases hd with h | h | ⟨h, -⟩ <;> rw [h] <;> nofun
  have passes := passStage_drained hc hax
  unfold settle
  rw [fenceStage_none hs, passes]
  generalize (passStage s).scans = scans
  obtain ⟨u, hu⟩ : ∃ u : State, u = { s with scans := scans } := ⟨_, rfl⟩
  have device : u.device = s.device := by rw [hu]
  have checks : u.checks = s.checks := by rw [hu]
  have ax : u.ax = .idle := by rw [hu]; exact hax
  have lists : ∀ c, (u.cqs.look c).list = [] := fun c => by
    rw [hu]
    exact congrArg Cq.list (hc c)
  have expiries : expiryStage u = u :=
    foldl_fixed _ u (fun k => expire_off (by rw [device]; exact ready)) _
  have waits : ∀ c, startCheck c u = u := fun c => by
    rcases hd with h | h | ⟨-, h⟩
    · exact startCheck_idle c (by rw [device, h]; nofun)
    · exact startCheck_idle c (by rw [device, h]; nofun)
    · exact startCheck_waits (.inl (by rw [checks, h, checks_none]; nofun))
  have starts : startUpStage u = u := by
    refine if_neg ?_
    rw [device, checks]
    rintro ⟨d, e⟩
    rcases hd with h | h | ⟨-, h⟩
    · rw [h] at d; cases d
    · rw [h] at d; cases d
    · rw [h] at e; cases e
  rw [← hu, deleteSqStage_idle ax, expiries, discardStage_idle (by rw [device]; exact halting),
    checkStage, waits, waits, starts, fillStage, fills_off (by rw [device]; exact ready),
    adminFetch_off (by rw [device]; exact ready), empty_writes lists]

theorem passStage_idle {s : State} {k : Fin 8}
    (h : (s.scans.look k).state = .empty ∨ (s.scans.look k).state = .loaded) :
    (passStage s).scans.look k = s.scans.look k := by
  rcases passStage_passed s k with e | ⟨-, -, ⟨e, -⟩ | e⟩
  · exact e
  · rcases h with h | h <;> rw [h] at e <;> cases e
  · rcases h with h | h <;> rw [h] at e <;> cases e

/-- The state with every slot freed without a record. -/
@[irreducible] def State.freedAll (s : State) : State := allSlots.foldl (fun s i => freeSlot i s) s

/-- The state with every ring NONE and every run ended, in OFF (R199). -/
def State.ringsDown (s : State) : State :=
  { s with
    sqs := Vector.replicate 8 Sq.gone
    cqs := Vector.replicate 8 Cq.gone
    intPending := 0
    ax := .idle
    scans := Table.build fun k =>
      if (s.scans.look k).state = .running then (s.scans.look k).loadedNow else s.scans.look k
    device := .off }

/-- The state in which everything still to be posted is discarded, in OFF (R199). -/
def State.drained (s : State) : State := s.freedAll.ringsDown

theorem freedAll_eq (s : State) : s.freedAll = allSlots.foldl (fun s i => freeSlot i s) s := by
  unfold State.freedAll
  rfl

theorem freedAll_aside (s : State) : s.freedAll.aside = s.aside := by
  rw [freedAll_eq]
  exact foldl_view State.aside _ (fun s i => freeSlot_aside i s) allSlots s

theorem ringsDown_aside (s : State) :
    s.ringsDown.aside = { s with device := .off, intPending := 0 }.aside := rfl

theorem drained_aside (s : State) :
    s.drained.aside = { s with device := .off, intPending := 0 }.aside := by
  have h := freedAll_aside s
  unfold State.drained
  rw [ringsDown_aside]
  generalize s.freedAll = u at *
  simp only [State.aside, State.control, State.frontEnd, State.store, Prod.mk.injEq] at h ⊢
  simp [h]

theorem discardAll_eq (s : State) :
    discardAll s = if s.enable then enterStarting s.drained else s.drained := by
  have enable : s.drained.enable = s.enable := (aside_enable (drained_aside s)).trans rfl
  rw [← enable]
  unfold discardAll State.drained
  rw [freedAll_eq]
  rfl

/-- Freeing slots touches OUTSTANDING alone of the scans. -/
theorem freeSlot_scan (i : Fin 16) (s : State) (k : Fin 8) :
    ∃ n, (freeSlot i s).scans.look k = { s.scans.look k with outstanding := n } := by
  unfold freeSlot
  split
  · exact ⟨_, rfl⟩
  · dsimp only
    split
    · exact ⟨_, rfl⟩
    · rename_i j _ _ _
      by_cases e : k = j
      · subst e
        exact ⟨_, Table.look_put_same _ _ _⟩
      · exact ⟨_, Table.look_put_ne _ _ _ _ e⟩

theorem freeSlots_scan (l : List (Fin 16)) (s : State) (k : Fin 8) :
    ∃ n, (l.foldl (fun s i => freeSlot i s) s).scans.look k
      = { s.scans.look k with outstanding := n } := by
  induction l generalizing s with
  | nil => exact ⟨_, rfl⟩
  | cons i l ih =>
    obtain ⟨n, hn⟩ := ih (freeSlot i s)
    obtain ⟨m, hm⟩ := freeSlot_scan i s k
    exact ⟨n, by rw [List.foldl_cons, hn, hm]⟩

/-- What the discard leaves: slots FREE, rings NONE, RUNNING scans LOADED, and all aside but the device
state and INT_PENDING as it stood. -/
theorem drained_keeps (s : State) :
    (∀ i, s.drained.slots.look i = none) ∧ (∀ c, s.drained.cqs.look c = Cq.gone)
      ∧ s.drained.aside = { s with device := .off, intPending := 0 }.aside
      ∧ ∀ k, (s.scans.look k).state = .running →
          (s.drained.scans.look k).state = .loaded
            ∧ (s.drained.scans.look k).passNumber = (s.scans.look k).passNumber
            ∧ (s.drained.scans.look k).overruns = (s.scans.look k).overruns := by
  have freed : ∀ i, s.freedAll.slots.look i = none := fun i => by
    rw [freedAll_eq]
    exact freeAll_free s i
  refine ⟨freed, fun c => Table.look_replicate _ c, drained_aside s, fun k running => ?_⟩
  obtain ⟨n, hn⟩ : ∃ n, s.freedAll.scans.look k = { s.scans.look k with outstanding := n } := by
    rw [freedAll_eq]
    exact freeSlots_scan allSlots s k
  unfold State.drained State.ringsDown
  dsimp only
  rw [Table.look_build, hn, if_pos running]
  exact ⟨rfl, rfl, rfl⟩

/-- The discard step where it is due. -/
theorem discardStage_due {s : State} (hd : s.device = .halting) (hax : s.ax.atRest = true)
    (hs : ∀ i r, s.slots.look i = some r → r.state = .posting) : discardStage s = discardAll s := by
  have none : s.anySlot SlotRec.holdsHalt = false :=
    anySlot_false.2 fun i r h => by simp [SlotRec.holdsHalt, hs i r h]
  exact if_pos (by simp [discardDue, hd, hax, none])

/-- What every end of halting shows, whatever state it enters. -/
def haltEnded (s t : State) : Prop :=
  (∀ i, t.slots.look i = none) ∧ (∀ q, (t.sqs.look q).state = .absent)
    ∧ (∀ c, (t.cqs.look c).state = .absent ∧ (t.cqs.look c).list = []
        ∧ (t.cqs.look c).writing = none ∧ (t.cqs.look c).timer = none)
    ∧ t.intPending = 0 ∧ t.ax = .idle ∧ intAsserted t = false
    ∧ (∀ k, (s.scans.look k).state = .running →
        (t.scans.look k).state = .loaded
          ∧ (t.scans.look k).passNumber = (s.scans.look k).passNumber
          ∧ (t.scans.look k).overruns = (s.scans.look k).overruns)
    ∧ t.shadows = s.shadows ∧ t.templates = s.templates

theorem intAsserted_none {s : State} (h : s.intPending = 0) : intAsserted s = false := by
  simp [intAsserted, h]

/-- A state in which all is discarded ends halting through the steps of its event. -/
theorem haltEnded_settle {s u : State}
    (hd : u.device = .off ∨ u.device = .fault
      ∨ u.device = .starting ∧ u.checks = { ca := .notDue, cb := .notDue })
    (hslots : ∀ i, u.slots.look i = none) (hsqs : ∀ q, (u.sqs.look q).state = .absent)
    (hcqs : ∀ c, u.cqs.look c = Cq.gone) (hint : u.intPending = 0) (hax : u.ax = .idle)
    (hscans : ∀ k, (s.scans.look k).state = .running →
      (u.scans.look k).state = .loaded
        ∧ (u.scans.look k).passNumber = (s.scans.look k).passNumber
        ∧ (u.scans.look k).overruns = (s.scans.look k).overruns)
    (hsh : u.shadows = s.shadows) (ht : u.templates = s.templates) : haltEnded s (settle u) := by
  rw [settle_drained hd hslots hcqs hax]
  refine ⟨hslots, hsqs, fun c => ?_, hint, hax, intAsserted_none hint, fun k running => ?_, hsh, ht⟩
  · dsimp only
    rw [hcqs]
    exact ⟨rfl, rfl, rfl, rfl⟩
  · have := hscans k running
    dsimp only
    rw [passStage_idle (.inr this.1)]
    exact this

theorem drained_sqs (s : State) (q : Fin 8) : (s.drained.sqs.look q).state = .absent :=
  congrArg Sq.state (Table.look_replicate _ q)

/-- The end of halting in OFF. -/
theorem settle_drained_off (s : State) :
    haltEnded s (settle s.drained) ∧ (settle s.drained).device = .off
      ∧ (settle s.drained).faultCode = s.faultCode ∧ (settle s.drained).frontEnd = s.frontEnd
      ∧ (settle s.drained).store = s.store := by
  obtain ⟨slots, cqs, aside, scans⟩ := drained_keeps s
  have sqs := drained_sqs s
  have off : s.drained.device = .off := rfl
  have bits : s.drained.intPending = 0 := rfl
  have ax : s.drained.ax = .idle := rfl
  have shadows : s.drained.shadows = s.shadows := (aside_shadows aside).trans rfl
  have templates : s.drained.templates = s.templates := (aside_templates aside).trans rfl
  refine ⟨haltEnded_settle (.inl off) slots sqs cqs bits ax scans shadows templates, ?_⟩
  have faultCode : s.drained.faultCode = s.faultCode := (aside_faultCode aside).trans rfl
  have frontEnd : s.drained.frontEnd = s.frontEnd := (aside_frontEnd aside).trans rfl
  have store : s.drained.store = s.store := (aside_store aside).trans rfl
  rw [settle_drained (.inl off) slots cqs ax]
  generalize (passStage s.drained).scans = scans'
  exact ⟨off, faultCode, frontEnd, store⟩

/-- The end of halting in FAULT, when ENABLE reads 1 and the configuration cannot be used (R196). -/
theorem settle_drained_fault (s v : State) (hscans : v.scans = s.drained.scans)
    (hsh : v.shadows = s.shadows) (ht : v.templates = s.templates) :
    haltEnded s (settle (enterFault .badAdminConfig v)) := by
  obtain ⟨-, -, -, scans⟩ := drained_keeps s
  have empty := enterFault_empty .badAdminConfig v
  obtain ⟨-, -, -, -, -, esqs, -, eint, eax, -, -, -, -, -, escans, eshadows, etemplates, -⟩ :=
    enterFault_effects .badAdminConfig v
  refine haltEnded_settle (.inr (.inl rfl)) empty.1 esqs empty.2.2.1 eint eax (fun k running => ?_)
    (eshadows.trans hsh) (etemplates.trans ht)
  obtain ⟨loaded, pass, overruns⟩ := scans k running
  obtain ⟨-, -, -, epass, eoverruns⟩ := escans k
  have faulted : (enterFault .badAdminConfig v).scans.look k = (s.drained.scans.look k).faulted := by
    rw [← hscans, ← (cutWrite_kept v).2.1]
    simp only [enterFault, Table.look_build]
    rfl
  refine ⟨?_, ?_, ?_⟩
  · rw [faulted]
    simp [Scan.faulted, loaded]
  · rw [epass, hscans, pass]
  · rw [eoverruns, hscans, overruns]

/-- The end of halting in STARTING, when ENABLE reads 1 (R178, R196). -/
theorem settle_drained_starting (s u : State) (hu : u = { s.drained with
      device := .starting, faultCode := .noFault, loading := true,
      checks := { ca := .notDue, cb := .notDue } }) :
    haltEnded s (settle u) ∧ (settle u).device = .starting ∧ (settle u).faultCode = .noFault
      ∧ (settle u).loading = true ∧ (settle u).frontEnd = s.frontEnd ∧ (settle u).store = s.store := by
  obtain ⟨slots, cqs, aside, scans⟩ := drained_keeps s
  have hd : u.device = .off ∨ u.device = .fault
      ∨ u.device = .starting ∧ u.checks = { ca := .notDue, cb := .notDue } := by
    rw [hu]
    exact .inr (.inr ⟨rfl, rfl⟩)
  have uslots : ∀ i, u.slots.look i = none := by rw [hu]; exact slots
  have ucqs : ∀ c, u.cqs.look c = Cq.gone := by rw [hu]; exact cqs
  have uax : u.ax = .idle := by rw [hu]; rfl
  refine ⟨haltEnded_settle hd uslots ?_ ucqs ?_ uax ?_ ?_ ?_, ?_⟩
  · rw [hu]; exact drained_sqs s
  · rw [hu]; rfl
  · rw [hu]; exact scans
  · rw [hu]; exact (aside_shadows aside).trans rfl
  · rw [hu]; exact (aside_templates aside).trans rfl
  · rw [settle_drained hd uslots ucqs uax, hu]
    exact ⟨rfl, rfl, rfl, (aside_frontEnd aside).trans rfl, (aside_store aside).trans rfl⟩

/-- Settles O11. -/
theorem discardStepEndsHalting : Obligations.DiscardStepEndsHalting := by
  unfold Obligations.DiscardStepEndsHalting
  intro s reset halting rest posting
  obtain ⟨-, -, aside, -⟩ := drained_keeps s
  suffices ∃ u, discardAll s = u ∧ haltEnded s (settle u)
      ∧ (s.enable = false → (settle u).device = .off ∧ (settle u).faultCode = s.faultCode
          ∧ (settle u).frontEnd = s.frontEnd ∧ (settle u).store = s.store)
      ∧ (s.enable = true → s.adminSq.entriesM1 ≠ 0 → s.adminCq.entriesM1 ≠ 0 →
          (settle u).device = .starting ∧ (settle u).faultCode = .noFault
            ∧ (settle u).loading = true ∧ (settle u).frontEnd = s.frontEnd
            ∧ (settle u).store = s.store) by
    obtain ⟨u, hu, ⟨h1, h2, h3, h4, h5, h6, h7, h8, h9⟩, off, starting⟩ := this
    exact ⟨_, act_to reset ((discardStage_due halting rest posting).trans hu), h1, h2, h3, h4, h5, h6,
      h7, h8, h9, off, starting⟩
  rw [discardAll_eq]
  cases enable : s.enable with
  | false =>
    obtain ⟨ended, off⟩ := settle_drained_off s
    exact ⟨_, if_neg (by nofun), ended, fun _ => off, nofun⟩
  | true =>
    obtain ⟨v, hv⟩ : ∃ v : State, v = { s.drained with device := .starting, faultCode := .noFault } :=
      ⟨_, rfl⟩
    have starts : enterStarting s.drained
        = if s.adminSq.entriesM1 = 0 ∨ s.adminCq.entriesM1 = 0 then enterFault .badAdminConfig v
          else { v with loading := true, checks := { ca := .notDue, cb := .notDue } } := by
      rw [hv, ← show s.drained.adminSq = s.adminSq from (aside_adminSq aside).trans rfl,
        ← show s.drained.adminCq = s.adminCq from (aside_adminCq aside).trans rfl]
      rfl
    by_cases bad : s.adminSq.entriesM1 = 0 ∨ s.adminCq.entriesM1 = 0
    · refine ⟨_, (if_pos rfl).trans (starts.trans (if_pos bad)),
        settle_drained_fault s v (by rw [hv]) ?_ ?_, nofun, fun _ h1 h2 => absurd bad (not_or.2 ⟨h1, h2⟩)⟩
      · rw [hv]; exact (aside_shadows aside).trans rfl
      · rw [hv]; exact (aside_templates aside).trans rfl
    · obtain ⟨ended, starting⟩ := settle_drained_starting s
        { v with loading := true, checks := { ca := .notDue, cb := .notDue } } (by rw [hv])
      exact ⟨_, (if_pos rfl).trans (starts.trans (if_neg bad)), ended, nofun, fun _ _ _ => starting⟩

end Sys2Proof.Machine
end

section
/-! SUBMIT and RELEASE, the events of CQ0's list, and the slot arbiter's choice (chapters 2, 9, 10). -/

namespace Sys2Proof.Machine

-- Parallel elaboration of the one text reserves more memory than the check allows.
set_option Elab.async false

/-! ### Doorbells (R164, R165) -/

/-- A command whose whole effect is an event raised on CQ0. -/
theorem act_raises {f : State → State} {s : State} {kind : EventKind} {object : Nat} {value : Int}
    (work : s.atWork) (hcq : (s.cqs.look 0).state = .active)
    (hf : f s = raiseEvent kind object value s) :
    ∃ t, act f s = .next t ∧ t.aside = s.aside ∧ slotsStand [] s t ∧ scansStand [] s t
      ∧ sqsStand [] s t ∧ cqsGrow [0] s t ∧ raised kind object value s t := by
  have hcqs := raiseEvent_cqs kind object value hcq
  obtain ⟨u, hu⟩ : ∃ u, u = raiseEvent kind object value s := ⟨_, rfl⟩
  rw [← hu] at hf hcqs
  have w := work.of_frame (u := u) (by simp [hu]) (by simp [hu])
  obtain ⟨grow, took⟩ := raised_of_grow hcqs (settle_cqsGrow w)
  refine ⟨_, act_to work.1 hf, ?_, ?_, ?_, ?_, grow, took⟩
  · rw [settle_aside_work w]; simp [hu]
  · exact slotsStand_via (fun i _ => by simp [hu]) (settle_slotsStand w)
  · exact scansStand_via (fun k _ => by simp [hu]) (settle_scansStand w)
  · exact sqsStand_via (fun q _ => by simp [hu]) (settle_sqsStand w)

theorem takesDoorbells_atWork {s : State} (h : s.atWork) : takesDoorbells s = true := by
  obtain ⟨-, h | ⟨h, -⟩⟩ := h <;> simp [takesDoorbells, h]

theorem writeSubmit_taken {queue : BitVec 4} {tail : Byte} {s : State} (work : s.atWork)
    (hq : queue.toNat ≤ 7) (ha : (s.sqs.look (eighth queue.toNat)).state = .active)
    (ht : tail.toNat < (s.sqs.look (eighth queue.toNat)).size) :
    writeSubmit queue tail s = s.setSq (eighth queue.toNat)
      { s.sqs.look (eighth queue.toNat) with tail := tail.toNat } := by
  simp [writeSubmit, takesDoorbells_atWork work, Nat.not_lt.2 hq, ha, ht]

theorem writeSubmit_refused {queue : BitVec 4} {tail : Byte} {s : State} (work : s.atWork)
    (hq : queue.toNat ≤ 7)
    (h : (s.sqs.look (eighth queue.toNat)).state ≠ .active
      ∨ (s.sqs.look (eighth queue.toNat)).size ≤ tail.toNat) :
    writeSubmit queue tail s = raiseEvent .badSubmit queue.toNat tail.toNat s := by
  have : ¬ ((s.sqs.look (eighth queue.toNat)).state = .active
      ∧ tail.toNat < (s.sqs.look (eighth queue.toNat)).size) :=
    fun ⟨ha, hl⟩ => h.elim (fun h => h ha) fun h => Nat.not_lt.2 h hl
  simp [writeSubmit, takesDoorbells_atWork work, Nat.not_lt.2 hq, this, eighth_val hq]

theorem writeSubmit_named {queue : BitVec 4} {tail : Byte} {s : State} (work : s.atWork)
    (hq : 7 < queue.toNat) : writeSubmit queue tail s = raiseEvent .badSubmit 15 tail.toNat s := by
  simp [writeSubmit, takesDoorbells_atWork work, hq]

/-- Settles O13. -/
theorem submitTakenOrRefused : Obligations.SubmitTakenOrRefused := by
  unfold Obligations.SubmitTakenOrRefused
  intro queue tail s work hcq
  by_cases hq : queue.toNat ≤ 7
  · by_cases h : (s.sqs.look (eighth queue.toNat)).state = .active
        ∧ tail.toNat < (s.sqs.look (eighth queue.toNat)).size
    · obtain ⟨ha, ht⟩ := h
      obtain ⟨u, hu⟩ : ∃ u, u = s.setSq (eighth queue.toNat)
          { s.sqs.look (eighth queue.toNat) with tail := tail.toNat } := ⟨_, rfl⟩
      have hf : writeSubmit queue tail s = u := (writeSubmit_taken work hq ha ht).trans hu.symm
      have w := work.of_frame (u := u) (by simp [hu]) (by simp [hu])
      refine ⟨_, act_to work.1 hf, ?_, ?_, ?_, fun _ _ _ => ⟨?_, ?_, ?_⟩, ?_, ?_⟩
      · rw [settle_aside_work w]; simp [hu]
      · exact slotsStand_via (fun i _ => by simp [hu]) (settle_slotsStand w)
      · exact scansStand_via (fun k _ => by simp [hu]) (settle_scansStand w)
      · rw [settle_sqsStand w _ (by simp) (by simp [hu, ha])]
        simp [hu]
      · exact sqsStand_via (fun q hq => by simp [hu, List.mem_singleton.not.1 hq]) (settle_sqsStand w)
      · exact cqsGrow_via (fun c _ => by simp [hu]) (settle_cqsGrow w)
      · rintro - (h | h)
        · exact absurd ha h
        · omega
      · intro h; omega
    · have h' : (s.sqs.look (eighth queue.toNat)).state ≠ .active
          ∨ (s.sqs.look (eighth queue.toNat)).size ≤ tail.toNat := by
        by_cases ha : (s.sqs.look (eighth queue.toNat)).state = .active
        · exact .inr (Nat.not_lt.1 fun ht => h ⟨ha, ht⟩)
        · exact .inl ha
      obtain ⟨t, ht, aside, slots, scans, sqs, grow, took⟩ :=
        act_raises work hcq (writeSubmit_refused work hq h')
      exact ⟨t, ht, aside, slots, scans, fun _ ha hl => absurd ⟨ha, hl⟩ h,
        fun _ _ => ⟨sqs, grow, took⟩, fun h => by omega⟩
  · obtain ⟨t, ht, aside, slots, scans, sqs, grow, took⟩ :=
      act_raises work hcq (writeSubmit_named (tail := tail) work (Nat.not_le.1 hq))
    exact ⟨t, ht, aside, slots, scans, fun h => absurd h hq, fun h => absurd h hq,
      fun _ => ⟨sqs, grow, took⟩⟩

/-- The span forward from HEAD to TAIL, both included, counted from HEAD (R165). -/
theorem inSpan_iff {d : Cq} {head : Nat} (hh : d.head < d.size) (ht : d.tail < d.size) :
    inSpan d head = true ↔
      ∃ n, n ≤ (d.tail + d.size - d.head) % d.size ∧ head = (d.head + n) % d.size := by
  have span : (d.tail + d.size - d.head) % d.size < d.size := Nat.mod_lt _ (by omega)
  have eq : ringDistance d.head d.tail d.size = (d.tail + d.size - d.head) % d.size := rfl
  simp only [inSpan, Bool.and_eq_true, decide_eq_true_eq, eq]
  constructor
  · rintro ⟨hl, hd⟩
    refine ⟨_, hd, ?_⟩
    rw [ringDistance_eq hh hl]
    split
    · rw [Nat.add_sub_cancel' (by omega), Nat.mod_eq_of_lt hl]
    · rw [show d.head + (head + d.size - d.head) = head + d.size by omega, Nat.add_mod_right,
        Nat.mod_eq_of_lt hl]
  · rintro ⟨n, hn, rfl⟩
    have hl : (d.head + n) % d.size < d.size := Nat.mod_lt _ (by omega)
    refine ⟨hl, ?_⟩
    rw [ringDistance_eq hh hl]
    rcases Nat.lt_or_ge (d.head + n) d.size with h | h
    · rw [Nat.mod_eq_of_lt h, if_pos (by omega)]
      omega
    · have e : (d.head + n) % d.size = d.head + n - d.size := by
        rw [Nat.mod_eq_sub_mod h, Nat.mod_eq_of_lt (by omega)]
      rw [e]
      split <;> omega

theorem writeRelease_taken {queue : BitVec 4} {head : Byte} {s : State} (work : s.atWork)
    (hq : queue.toNat ≤ 7) (ha : (s.cqs.look (eighth queue.toNat)).state = .active)
    (hs : inSpan (s.cqs.look (eighth queue.toNat)) head.toNat = true) :
    writeRelease queue head s = s.setCq (eighth queue.toNat)
      { s.cqs.look (eighth queue.toNat) with head := head.toNat } := by
  simp [writeRelease, takesDoorbells_atWork work, Nat.not_lt.2 hq, ha, hs]

theorem writeRelease_refused {queue : BitVec 4} {head : Byte} {s : State} (work : s.atWork)
    (hq : queue.toNat ≤ 7)
    (h : ¬ ((s.cqs.look (eighth queue.toNat)).state = .active
      ∧ inSpan (s.cqs.look (eighth queue.toNat)) head.toNat = true)) :
    writeRelease queue head s = raiseEvent .badRelease queue.toNat head.toNat s := by
  simp [writeRelease, takesDoorbells_atWork work, Nat.not_lt.2 hq, h, eighth_val hq]

theorem writeRelease_named {queue : BitVec 4} {head : Byte} {s : State} (work : s.atWork)
    (hq : 7 < queue.toNat) : writeRelease queue head s = raiseEvent .badRelease 15 head.toNat s := by
  simp [writeRelease, takesDoorbells_atWork work, hq]

/-- Settles O14. -/
theorem releaseTakenOrRefused : Obligations.ReleaseTakenOrRefused := by
  unfold Obligations.ReleaseTakenOrRefused
  intro queue head s work hcq law
  by_cases hq : queue.toNat ≤ 7
  · have span : (s.cqs.look (eighth queue.toNat)).state = .active →
        (inSpan (s.cqs.look (eighth queue.toNat)) head.toNat = true ↔ _) := fun ha =>
      have ⟨hh, ht, _⟩ := (law.2 (eighth queue.toNat)).1 (by rw [ha]; decide)
      inSpan_iff hh ht
    by_cases h : (s.cqs.look (eighth queue.toNat)).state = .active
        ∧ inSpan (s.cqs.look (eighth queue.toNat)) head.toNat = true
    · obtain ⟨ha, hs⟩ := h
      obtain ⟨u, hu⟩ : ∃ u, u = s.setCq (eighth queue.toNat)
          { s.cqs.look (eighth queue.toNat) with head := head.toNat } := ⟨_, rfl⟩
      have hf : writeRelease queue head s = u := (writeRelease_taken work hq ha hs).trans hu.symm
      have w := work.of_frame (u := u) (by simp [hu]) (by simp [hu])
      refine ⟨_, act_to work.1 hf, ?_, ?_, ?_, ?_, ?_⟩
      · rw [settle_aside_work w]; simp [hu]
      · exact slotsStand_via (fun i _ => by simp [hu]) (settle_slotsStand w)
      · exact scansStand_via (fun k _ => by simp [hu]) (settle_scansStand w)
      · exact sqsStand_via (fun q _ => by simp [hu]) (settle_sqsStand w)
      · rintro d rfl
        refine ⟨fun _ _ _ => ⟨?_, ?_⟩, ?_, fun h => by omega⟩
        · have := settle_cqsGrow w (eighth queue.toNat) (by simp)
          rwa [hu, State.setCq_cqs, Table.look_put_same, ← hu] at this
        · exact cqsGrow_via (fun c hc => by simp [hu, List.mem_singleton.not.1 hc])
            (settle_cqsGrow w)
        · rintro - (h | h)
          · exact absurd ha h
          · obtain ⟨n, hn, e⟩ := (span ha).1 hs
            exact absurd e (h n hn)
    · obtain ⟨t, ht, aside, slots, scans, sqs, grow, took⟩ :=
        act_raises work hcq (writeRelease_refused work hq h)
      refine ⟨t, ht, aside, slots, scans, sqs, ?_⟩
      rintro d rfl
      exact ⟨fun _ ha hs => absurd ⟨ha, (span ha).2 hs⟩ h, fun _ _ => ⟨grow, took⟩,
        fun h => by omega⟩
  · obtain ⟨t, ht, aside, slots, scans, sqs, grow, took⟩ :=
      act_raises work hcq (writeRelease_named (head := head) work (Nat.not_le.1 hq))
    exact ⟨t, ht, aside, slots, scans, sqs, fun d _ => ⟨fun h => absurd h hq, fun h => absurd h hq,
      fun _ => ⟨grow, took⟩⟩⟩

/-! ### Events (R193) -/

/-- Settles O15. -/
theorem eventJoinsOrMerges : Obligations.EventJoinsOrMerges := by
  unfold Obligations.EventJoinsOrMerges
  intro kind object value d
  refine ⟨withEvent_eq d kind object value, inWrite_append_waiting d, fun h => ?_, fun h => ?_,
    fun h => Cq.merges.withEvent h kind object value⟩
  · simp [Cq.withEvent, mergeEvent_none h]
  · obtain ⟨before, e, after, list, hk, ho, first, merged⟩ := mergeEvent_some h
    exact ⟨before, e, after, list, hk, ho, first, by simp [Cq.withEvent, merged]⟩

/-! ### The slot arbiter (R26, R27) -/

theorem sqEligible_iff (s : State) (q : Fin 8) : sqEligible s q = true ↔
    s.device = .ready ∧ (s.sqs.look q).state = .active ∧ (s.sqs.look q).head ≠ (s.sqs.look q).tail
      ∧ (∀ i r, s.slots.look i = some r → r.fromSq q = true → r.state ≠ .fetching ∧ r.hold = false)
      ∧ s.countSlots (fun r => r.fromSq q) < (s.sqs.look q).limit
      ∧ (s.cqs.look (s.sqs.look q).boundCq).state = .active := by
  have split : (∀ i r, s.slots.look i = some r → r.fromSq q = true →
        r.state ≠ .fetching ∧ r.hold = false) ↔
      s.anySlot (fun r => r.fromSq q && r.state == .fetching) = false
        ∧ s.anySlot (fun r => r.fromSq q && r.hold) = false := by
    simp only [anySlot_false]
    constructor
    · intro h
      constructor <;> intro i r hr <;> cases hq : r.fromSq q
      · rfl
      · simp [(h i r hr hq).1]
      · rfl
      · simp [(h i r hr hq).2]
    · rintro ⟨h1, h2⟩ i r hr hq
      have := h1 i r hr
      have := h2 i r hr
      simp_all
  rw [split]
  simp only [sqEligible, Bool.and_eq_true, beq_iff_eq, bne_iff_ne, decide_eq_true_eq,
    Bool.not_eq_true']
  tauto

theorem scanEligible_iff (s : State) (k : Fin 8) : scanEligible s k = true ↔
    s.device = .ready ∧ ((s.scans.look k).state = .running ∨ (s.scans.look k).state = .stopping)
      ∧ (s.scans.look k).nextTemplate < (s.scans.look k).count
      ∧ s.countSlots (fun r => r.fromScan k) < (s.scans.look k).limit
      ∧ ∃ c, (s.scans.look k).target = some c ∧ (s.cqs.look c).state = .active := by
  rcases e : (s.scans.look k).target with _ | c <;> simp [scanEligible, e, and_assoc]

/-- How far behind pointer `p` source `n` stands in the cyclic sequence (R27). -/
def behind (p n : Fin 15) : Nat := (n.val + 14 - p.val) % 15

/-- The sources after a pointer are all of them, in the order of their distance behind it (R27). -/
theorem sourcesAfter_sorted : ∀ p : Fin 15,
    (∀ n, n ∈ sourcesAfter p) ∧ (sourcesAfter p).Pairwise (fun m n => behind p m ≤ behind p n) := by
  decide

theorem pickInClass_none {s : State} {c : Fin 4} : pickInClass s c = none ↔
    ∀ n, eligible s n = true → sourceClass s n ≠ c := by
  unfold pickInClass
  rw [List.find?_eq_none]
  constructor
  · intro h n he hc
    exact h n ((sourcesAfter_sorted _).1 n) (by simp [he, hc])
  · intro h n _
    cases he : eligible s n with
    | false => simp
    | true => simp [h n he]

theorem pickInClass_some {s : State} {c : Fin 4} {n : Fin 15} (h : pickInClass s c = some n) :
    eligible s n = true ∧ sourceClass s n = c
      ∧ ∀ m, eligible s m = true → sourceClass s m = c →
          behind (s.rotation.look c) n ≤ behind (s.rotation.look c) m := by
  obtain ⟨mem, sorted⟩ := sourcesAfter_sorted (s.rotation.look c)
  unfold pickInClass at h
  obtain ⟨hn, before, after, list, first⟩ := List.find?_eq_some_iff_append.1 h
  simp only [Bool.and_eq_true, beq_iff_eq] at hn
  refine ⟨hn.1, hn.2, fun m he hc => ?_⟩
  have hm := mem m
  rw [list] at hm sorted
  rcases List.mem_append.1 hm with hm | hm
  · have := first m hm
    simp [he, hc] at this
  · rcases List.mem_cons.1 hm with rfl | hm
    · exact Nat.le_refl _
    · exact (List.pairwise_cons.1 (List.pairwise_append.1 sorted).2.1).1 m hm

theorem pickSource_none {s : State} : pickSource s = none ↔ ∀ n, eligible s n = false := by
  unfold pickSource
  simp only [List.findSome?_eq_none_iff, Option.map_eq_none_iff]
  constructor
  · intro h n
    by_contra he
    exact pickInClass_none.1 (h (sourceClass s n) (by
      have : ∀ c, c ∈ allClasses := by decide
      exact this _)) n (Bool.of_not_eq_false he) rfl
  · intro h c _
    exact pickInClass_none.2 fun n he => by simp [h n] at he

theorem allClasses_sorted : allClasses.Pairwise (· < ·) := by decide

theorem pickSource_some {s : State} {c : Fin 4} {n : Fin 15} (h : pickSource s = some (c, n)) :
    pickInClass s c = some n ∧ ∀ d, d < c → pickInClass s d = none := by
  unfold pickSource at h
  obtain ⟨before, d, after, list, hd, first⟩ := List.findSome?_eq_some_iff.1 h
  simp only [Option.map_eq_some_iff, Prod.mk.injEq] at hd
  obtain ⟨m, hm, rfl, rfl⟩ := hd
  refine ⟨hm, fun e he => ?_⟩
  have mem : e ∈ allClasses := by
    have : ∀ c, c ∈ allClasses := by decide
    exact this e
  have sorted := allClasses_sorted
  rw [list] at mem sorted
  rcases List.mem_append.1 mem with mem | mem
  · simpa using first e mem
  · rcases List.mem_cons.1 mem with rfl | mem
    · exact absurd he (lt_irrefl _)
    · have := (List.pairwise_cons.1 (List.pairwise_append.1 sorted).2.1).1 e mem
      exact absurd he (lt_asymm this)

theorem fillFrom_rotation (i : Fin 16) (n : Fin 15) (s : State) :
    (fillFrom i n s).rotation = s.rotation := by
  unfold fillFrom
  dsimp only
  repeat' split
  all_goals rfl

theorem fillOne_rotation {s : State} {c : Fin 4} {n : Fin 15} (h : pickSource s = some (c, n))
    (free : lowestFree s ≠ none) : (fillOne s).rotation = s.rotation.put c n := by
  obtain ⟨i, hi⟩ := Option.ne_none_iff_exists'.1 free
  simp only [fillOne, hi, h, fillFrom_rotation]

/-- Settles O16. -/
theorem arbiterPicksByClassAndRotation : Obligations.ArbiterPicksByClassAndRotation := by
  unfold Obligations.ArbiterPicksByClassAndRotation
  intro s
  refine ⟨fun n => rfl, fun n q hn => ⟨by simp [sourceClass, hn], ?_⟩,
    fun n k hn => ⟨by simp [sourceClass, hn], ?_⟩, pickSource_none, fun c n h => ?_⟩
  · simp only [eligible, hn, sqEligible_iff]
  · simp only [eligible, hn, scanEligible_iff]
  · obtain ⟨pick, lower⟩ := pickSource_some h
    obtain ⟨he, hc, near⟩ := pickInClass_some pick
    exact ⟨he, hc, fun m hm => le_of_not_gt fun hl => pickInClass_none.1 (lower _ hl) m hm rfl, near,
      fillOne_rotation h⟩

end Sys2Proof.Machine
end

section
/-! SUPPORT. What the steps of an event at work can do to one slot, one scan and one ring: a slot that
returned to FREE, a fence that stays shut, slots filled, a scan with a pass in progress, a DELETING
SQ. -/

namespace Sys2Proof.Machine

-- Parallel elaboration of the one text reserves more memory than the check allows.
set_option Elab.async false

/-! ### At work but for one slot -/

/-- A slot other than `i` holds the halt back, whatever becomes of `i` (R199). -/
def State.worksBut (s : State) (i : Fin 16) : Prop :=
  s.device = .ready ∨ s.device = .halting ∧ ∃ j x, j ≠ i ∧ s.slots.look j = some x
    ∧ x.state ≠ .posting ∧ x.state ≠ .fenced

theorem State.worksBut.of_frame {s u : State} {i : Fin 16} (h : s.worksBut i)
    (hd : u.device = s.device) (hs : ∀ j, j ≠ i → u.slots.look j = s.slots.look j) :
    u.device = .ready ∨ u.device = .halting ∧ u.heldBack := by
  rw [hd]
  exact h.imp_right fun ⟨hd, j, x, hj, hx, hp, hf⟩ => ⟨hd, j, x, by rw [hs j hj]; exact hx, hp, hf⟩

/-! ### The lists -/

/-- How often slot `i` stands in each posting list. -/
def listings (i : Fin 16) (s : State) (c : Fin 8) : Nat := (s.cqs.look c).list.count (.slot i)

section listings

variable (i : Fin 16)

theorem setCq_listings {s : State} {c : Fin 8} {d : Cq}
    (h : d.list.count (.slot i) = (s.cqs.look c).list.count (.slot i)) :
    listings i (s.setCq c d) = listings i s := by
  funext e
  by_cases he : e = c
  · subst he; simpa [listings] using h
  · simp [listings, he]

theorem joinList_listings {c : Fin 8} {m : Member} (h : m ≠ .slot i) (s : State) :
    listings i (joinList c m s) = listings i s := by
  unfold joinList
  split
  · exact setCq_listings i (by simp [h])
  · rfl

theorem freeSlot_listings (j : Fin 16) (s : State) : listings i (freeSlot j s) = listings i s := by
  funext c; simp [listings]

theorem postSlot_listings {j : Fin 16} (h : j ≠ i) (res : Result) (s : State) :
    listings i (postSlot j res s) = listings i s := by
  unfold postSlot
  split
  · rfl
  · unfold handOff
    split
    · rfl
    · split
      · exact joinList_listings i (by simpa using h) _
      · exact freeSlot_listings i _ _

theorem completeWith_listings (status : AdminStatus) (aux : Nat) (value : Int) (sc : ScanState)
    (pass : Nat) (s : State) : listings i (completeWith status aux value sc pass s) = listings i s := by
  unfold completeWith
  split
  · exact joinList_listings i (by simp) s
  · rfl

theorem withEvent_listings (d : Cq) (kind : EventKind) (object : Nat) (value : Int) :
    (d.withEvent kind object value).list.count (.slot i) = d.list.count (.slot i) := by
  by_cases h : (kind, object) ∈ d.waiting.filterMap Member.eventKey
  · obtain ⟨before, e, after, list, -, -, -, merged⟩ := mergeEvent_some h
    rw [← inWrite_append_waiting d, list]
    simp [Cq.withEvent, merged]
  · simp [Cq.withEvent, mergeEvent_none h]

theorem raiseEvent_listings (kind : EventKind) (object : Nat) (value : Int) (s : State) :
    listings i (raiseEvent kind object value s) = listings i s := by
  unfold raiseEvent
  split
  · exact setCq_listings i (withEvent_listings i _ _ _ _)
  · rfl

theorem joinScanDone_listings (k : Fin 8) (status : ScanDoneStatus) (s : State) :
    listings i (joinScanDone k status s) = listings i s := by
  unfold joinScanDone
  dsimp only
  split
  · exact joinList_listings i (by simp) s
  · rfl

theorem completeStop_listings (k : Fin 8) (s : State) : listings i (completeStop k s) = listings i s := by
  unfold completeStop complete
  split
  · exact completeWith_listings i _ _ _ _ _ s
  · rfl

theorem passComplete_listings (k : Fin 8) (s : State) : listings i (passComplete k s) = listings i s := by
  unfold passComplete
  dsimp only
  repeat' split
  · rfl
  · exact joinScanDone_listings i k _ _
  · rfl
  · exact (completeStop_listings i k _).trans (joinScanDone_listings i k _ _)
  · rfl

theorem deleteSqStage_listings (s : State) : listings i (deleteSqStage s) = listings i s := by
  unfold deleteSqStage complete
  split
  · split
    · exact completeWith_listings i _ _ _ _ _ _
    · rfl
  · rfl

theorem beginWrite_listings (c : Fin 8) (s : State) : listings i (beginWrite c s) = listings i s := by
  unfold beginWrite
  dsimp only
  split
  · split
    · exact setCq_listings i rfl
    · rfl
  · rfl

variable {i}

theorem fenceRelease_listings {s : State} (h : s.slots.look i = none) (j : Fin 16) :
    listings i (fenceRelease j s) = listings i s := by
  by_cases e : j = i
  · rw [e, fenceRelease_none h]
  · unfold fenceRelease
    split
    · split
      · exact postSlot_listings i e _ s
      · rfl
    · rfl

theorem fenceStage_listings {s : State} (h : s.slots.look i = none) :
    listings i (fenceStage s) = listings i s := by
  have : ∀ (l : List (Fin 16)) (u : State), u.slots.look i = none →
      listings i (l.foldl (fun s j => fenceRelease j s) u) = listings i u := by
    intro l
    induction l with
    | nil => exact fun _ _ => rfl
    | cons a l ih =>
      exact fun u hu => (ih _ (fenceRelease_free a i u hu)).trans (fenceRelease_listings hu a)
  exact this _ s h

/-- No list takes a slot that is FREE before the steps of the event. -/
theorem settle_listings {u : State} (w : u.device = .ready ∨ u.device = .halting ∧ u.heldBack)
    (h : u.slots.look i = none) : listings i (settle u) = listings i u := by
  have pass : ∀ s, listings i (passStage s) = listings i s := fun s =>
    foldl_view (listings i) _ (fun s k => passComplete_listings i k s) _ _
  have write : ∀ s, listings i (writeStage s) = listings i s := fun s =>
    foldl_view (listings i) _ (fun s c => beginWrite_listings i c s) _ _
  have same : ∀ {s t : State}, t.cqs = s.cqs → listings i t = listings i s := fun e => by
    funext c; simp [listings, e]
  rw [settle_of_work w, write, same (adminFetchStage_cqs _),
    same (t := fillStage _) (fills_cqs 16 _), same (expiryStage_cqs _), deleteSqStage_listings, pass,
    fenceStage_listings h]

end listings

/-! ### Slots filled -/

theorem fillFrom_parts (i : Fin 16) (n : Fin 15) (s : State) :
    (fillFrom i n s).slots = s.slots ∨ (fillFrom i n s).age = s.age ++ [i] := by
  unfold fillFrom
  dsimp only
  repeat' split
  · exact .inr rfl
  · exact .inr rfl
  · exact .inl rfl

/-- A fill either leaves a FREE slot FREE or puts a record admitted anew into it. -/
theorem fillOne_new {s : State} {j : Fin 16} {x : SlotRec} (h : s.slots.look j = none)
    (hx : (fillOne s).slots.look j = some x) : admittedAnew (fillOne s) x := by
  obtain ⟨joined, ⟨age, new, -⟩, -⟩ := fillOne_joined s
  have hj : j ∈ joined := by
    revert hx age
    unfold fillOne
    split
    · rename_i i c n _ _
      intro hx age
      rcases fillFrom_parts i n { s with rotation := s.rotation.put c n } with e | e
      · rw [e, h] at hx; cases hx
      · rw [e] at age
        rw [← List.append_cancel_left age]
        by_contra hji
        rw [fillFrom_slots_ne (by simpa using hji), h] at hx
        cases hx
    · intro hx
      rw [h] at hx
      cases hx
  obtain ⟨-, y, hy, ha⟩ := new j hj
  rw [hy] at hx
  cases hx
  exact ha

theorem fills_new (n : Nat) {s : State} {j : Fin 16} {x : SlotRec} (h : s.slots.look j = none)
    (hx : (fills n s).slots.look j = some x) : admittedAnew (fills n s) x := by
  induction n generalizing s with
  | zero => rw [fills, h] at hx; cases hx
  | succ n ih =>
    rcases e : (fillOne s).slots.look j with _ | y
    · exact ih e hx
    · have := fills_occupied n e
      rw [show (fills n (fillOne s)).slots.look j = some x from hx] at this
      cases this
      exact admittedAnew_of_filled (fills_sqs n _) (fills_filled n _) (fillOne_new h e)

/-- The state before the fills of the event. -/
def State.beforeFills (u : State) : State :=
  expiryStage (deleteSqStage (passStage (fenceStage u)))

theorem beforeFills_slots (u : State) : u.beforeFills.slots = (fenceStage u).slots := by
  simp [State.beforeFills]

section fills

variable {u : State} (w : u.device = .ready ∨ u.device = .halting ∧ u.heldBack)

include w

theorem settle_filled : settle u = writeStage (adminFetchStage (fills 16 u.beforeFills)) :=
  settle_of_work w

theorem settle_slots : (settle u).slots = (fills 16 u.beforeFills).slots := by
  rw [settle_filled w]; simp

theorem admittedAnew_settle {x : SlotRec} (h : admittedAnew (fills 16 u.beforeFills) x) :
    admittedAnew (settle u) x := by
  rw [settle_filled w]
  simpa [admittedAnew] using h

/-- What a slot holds after the event that was FREE once the fences had opened. -/
theorem settle_new {j : Fin 16} {x : SlotRec} (h : (fenceStage u).slots.look j = none)
    (hx : (settle u).slots.look j = some x) : admittedAnew (settle u) x := by
  have free : u.beforeFills.slots.look j = none := by rw [beforeFills_slots]; exact h
  rw [settle_slots w] at hx
  exact admittedAnew_settle w (fills_new 16 free hx)

end fills

/-- A slot that a command at work has freed without a record (R38). -/
theorem freed_of_free {s u : State} {i : Fin 16}
    (w : u.device = .ready ∨ u.device = .halting ∧ u.heldBack) (h : u.slots.look i = none)
    (list : ∀ c, listings i u c ≤ listings i s c) : freed i s (settle u) := by
  refine ⟨fun x hx => settle_new w (fenceStage_free i u h) hx, fun c => ?_⟩
  have := congrFun (settle_listings w h) c
  exact this.trans_le (list c)

/-! ### Fences that stay shut (R36) -/

theorem fenceOpen_of_not_fenced {s : State} {i : Fin 16} {r : SlotRec} (h : s.slots.look i = some r)
    (hf : r.state ≠ .fenced) : fenceOpen s i = false := by
  unfold fenceOpen
  rw [h]
  dsimp only
  split
  · rename_i hs _
    exact absurd hs hf
  · rfl

theorem fenceRelease_shut {s : State} {i : Fin 16} (h : fenceOpen s i = false) :
    fenceRelease i s = s := by simp [fenceRelease, h]

/-- A fence release is the posting of its slot, or nothing. -/
theorem fenceRelease_eq (i : Fin 16) (s : State) :
    fenceRelease i s = s ∨ ∃ res, fenceRelease i s = postSlot i res s := by
  unfold fenceRelease
  split
  · split
    · exact .inr ⟨_, rfl⟩
    · exact .inl rfl
  · exact .inl rfl

theorem fenceRelease_slots_ne {i j : Fin 16} (h : j ≠ i) (s : State) :
    (fenceRelease i s).slots.look j = s.slots.look j := by
  rcases fenceRelease_eq i s with e | ⟨res, e⟩ <;> rw [e]
  exact postSlot_slots_ne h res s

/-- A slot that is posted holds its record in POSTING, or is FREE. -/
theorem postSlot_slots_same (i : Fin 16) (res : Result) (s : State) :
    (postSlot i res s).slots.look i = none
      ∨ ∃ r, s.slots.look i = some r
        ∧ (postSlot i res s).slots.look i = some { r with state := .posting, result := some res } := by
  rcases hr : s.slots.look i with _ | r
  · exact .inl (by simp [postSlot, hr])
  · by_cases h : (s.cqs.look r.targetCq).state = .active ∧ r.orphaned = false
    · exact .inr ⟨r, rfl, by rw [postSlot_active hr h.1 h.2]; simp⟩
    · refine .inl (postSlot_gone hr ?_)
      rw [← Bool.not_eq_false]
      tauto

/-- A slot that is occupied after a fence release held a record of the same origin before it. -/
theorem fenceRelease_origin {i j : Fin 16} {s : State} {x : SlotRec}
    (h : (fenceRelease i s).slots.look j = some x) :
    ∃ y, s.slots.look j = some y ∧ y.origin = x.origin := by
  by_cases e : j = i
  · subst e
    rcases fenceRelease_eq j s with e | ⟨res, e⟩ <;> rw [e] at h
    · exact ⟨x, h, rfl⟩
    · rcases postSlot_slots_same j res s with e | ⟨r, hr, e⟩ <;> rw [e] at h <;> cases h
      exact ⟨r, hr, rfl⟩
  · rw [fenceRelease_slots_ne e] at h
    exact ⟨x, h, rfl⟩

theorem earlierThan_congr {x y : SlotRec} (h : y.origin = x.origin) (q : Fin 8) (n : BitVec 32) :
    y.earlierThan q n = x.earlierThan q n := by
  unfold SlotRec.earlierThan SlotRec.seqOn
  rw [h]

theorem fenceOpen_held {s : State} {i j : Fin 16} {r x : SlotRec} {q : Fin 8} {index : Nat}
    {a : Admission} (hi : s.slots.look i = some r) (ho : r.origin = .sq q index (some a))
    (hj : s.slots.look j = some x) (he : x.earlierThan q a.seq = true) : fenceOpen s i = false := by
  unfold fenceOpen
  rw [hi]
  dsimp only
  rw [ho]
  split
  · rename_i heq
    cases heq
    rw [anySlot_true hj he]
    rfl
  · rfl

/-- A slot of an SQ stands while an earlier slot of that SQ is left. -/
theorem fenceStage_held {u : State} {i j : Fin 16} {r x : SlotRec} {q : Fin 8} {index : Nat}
    {a : Admission} (hi : u.slots.look i = some r) (ho : r.origin = .sq q index (some a))
    (hj : (fenceStage u).slots.look j = some x) (he : x.earlierThan q a.seq = true) :
    (fenceStage u).slots.look i = some r := by
  have back : ∀ (l : List (Fin 16)) (v : State),
      (l.foldl (fun s i => fenceRelease i s) v).slots.look j = some x →
        ∃ y, v.slots.look j = some y ∧ y.origin = x.origin := by
    intro l
    induction l with
    | nil => exact fun v h => ⟨x, h, rfl⟩
    | cons b l ih =>
      intro v h
      obtain ⟨y, hy, e⟩ := ih (fenceRelease b v) h
      obtain ⟨z, hz, f⟩ := fenceRelease_origin hy
      exact ⟨z, hz, f.trans e⟩
  have keep : ∀ (l : List (Fin 16)) (v : State),
      (l.foldl (fun s i => fenceRelease i s) v).slots.look j = some x →
      v.slots.look i = some r → (l.foldl (fun s i => fenceRelease i s) v).slots.look i = some r := by
    intro l
    induction l with
    | nil => exact fun _ _ h => h
    | cons b l ih =>
      intro v h hv
      refine ih _ h ?_
      by_cases e : i = b
      · obtain ⟨y, hy, f⟩ := back (b :: l) v h
        have shut := fenceOpen_held hv ho hy (by rw [earlierThan_congr f]; exact he)
        show (fenceRelease b v).slots.look i = some r
        rw [← e, fenceRelease_shut shut]
        exact hv
      · exact (fenceRelease_slots_ne e v).trans hv
  exact keep _ u hj hi

theorem admittedAnew_not_earlier {t : State} {x : SlotRec} (h : admittedAnew t x) (q : Fin 8)
    (n : BitVec 32) : x.earlierThan q n = false := by
  obtain ⟨-, -, -, -, -, -, -, -, -, -, -, ⟨-, -, p, h, -⟩ | ⟨-, k, index, pass, h, -⟩⟩ := h <;>
    simp [SlotRec.earlierThan, SlotRec.seqOn, h]

theorem arbiterView_age {s t : State} (h : arbiterView s = arbiterView t) : s.age = t.age :=
  congrArg Prod.fst h

section held

variable {u : State} (w : u.device = .ready ∨ u.device = .halting ∧ u.heldBack)

include w

/-- A slot of an SQ stands through the event while an earlier slot of that SQ is left at its end. -/
theorem settle_held {i j : Fin 16} {r x : SlotRec} {q : Fin 8} {index : Nat} {a : Admission}
    (hi : u.slots.look i = some r) (ho : r.origin = .sq q index (some a))
    (hj : (settle u).slots.look j = some x) (he : x.earlierThan q a.seq = true) :
    (settle u).slots.look i = some r := by
  have left : (fenceStage u).slots.look j = some x := by
    rcases e : (fenceStage u).slots.look j with _ | y
    · have := admittedAnew_not_earlier (settle_new w e hj) q a.seq
      rw [he] at this
      cases this
    · rw [← beforeFills_slots] at e
      have := fills_occupied 16 e
      rw [settle_slots w, this] at hj
      exact hj
  have stays := fenceStage_held hi ho left he
  rw [← beforeFills_slots] at stays
  rw [settle_slots w]
  exact fills_occupied 16 stays

/-! ### Age order -/

omit w in
/-- A slot at the end of age order stays there while it is no FENCED MARK. -/
theorem fenceStage_age_end {i : Fin 16} {r : SlotRec} {l : List (Fin 16)}
    (hi : u.slots.look i = some r) (hf : r.state ≠ .fenced) (age : u.age = l ++ [i]) :
    ∃ stay, (fenceStage u).age = stay ++ [i] ∧ stay.Sublist l := by
  have one : ∀ (j : Fin 16) (v : State) (m : List (Fin 16)), v.slots.look i = some r →
      v.age = m ++ [i] → ∃ stay, (fenceRelease j v).age = stay ++ [i] ∧ stay.Sublist m := by
    intro j v m hv age
    by_cases e : i = j
    · subst e
      rw [fenceRelease_shut (fenceOpen_of_not_fenced hv hf)]
      exact ⟨m, age, List.Sublist.refl _⟩
    · have erase : ∃ stay, v.age.erase j = stay ++ [i] ∧ stay.Sublist m := by
        rw [age]
        by_cases hj : j ∈ m
        · exact ⟨m.erase j, List.erase_append_left _ hj, List.erase_sublist⟩
        · refine ⟨m, ?_, List.Sublist.refl _⟩
          rw [List.erase_append_right _ hj, List.erase_of_not_mem (by simpa using Ne.symm e)]
      have same : ∃ stay, v.age = stay ++ [i] ∧ stay.Sublist m := ⟨m, age, List.Sublist.refl _⟩
      unfold fenceRelease postSlot handOff freeSlot joinList
      dsimp only
      repeat' split
      all_goals first | exact same | exact erase
  have all : ∀ (js : List (Fin 16)) (v : State) (m : List (Fin 16)), v.slots.look i = some r →
      v.age = m ++ [i] →
      ∃ stay, (js.foldl (fun s j => fenceRelease j s) v).age = stay ++ [i] ∧ stay.Sublist m := by
    intro js
    induction js with
    | nil => exact fun v m _ age => ⟨m, age, List.Sublist.refl _⟩
    | cons j js ih =>
      intro v m hv age
      obtain ⟨stay, age', sub⟩ := one j v m hv age
      obtain ⟨stay', age'', sub'⟩ := ih _ stay (fenceRelease_stand j v i r (by simp) hv hf) age'
      exact ⟨stay', age'', sub'.trans sub⟩
  exact all _ u l hi age

/-- Slot `i`, filled by the command itself, and the slots of later fills stand at the end of age
order (R24, R28). -/
theorem settle_joined {s : State} {i : Fin 16} {r : SlotRec} (stand : slotsStand [] s u)
    (free : s.slots.look i = none) (hi : u.slots.look i = some r) (age : u.age = s.age ++ [i])
    (hf : r.state ≠ .fenced) (new : admittedAnew (settle u) r) :
    ∃ joined, ageJoined (i :: joined) s (settle u) := by
  obtain ⟨stay, fenced, sub⟩ := fenceStage_age_end hi hf age
  obtain ⟨joined, ⟨filled, fresh, -⟩, -⟩ := fills_joined 16 u.beforeFills
  have view : arbiterView u.beforeFills = arbiterView (fenceStage u) := by simp [State.beforeFills]
  have before : u.beforeFills.age = (fenceStage u).age := arbiterView_age view
  have after : (settle u).age = (fills 16 u.beforeFills).age := by
    have : arbiterView (settle u) = arbiterView (fills 16 u.beforeFills) := by
      rw [settle_filled w]; simp
    exact arbiterView_age this
  have held := settle_slotsStand w i r (by simp) hi hf
  refine ⟨joined, stay, ?_, sub, fun j hj => ?_⟩
  · rw [after, filled, before, fenced]
    simp
  · rcases List.mem_cons.1 hj with rfl | hj
    · exact ⟨by rw [free, held]; nofun, r, held, new⟩
    · obtain ⟨empty, x, hx, ha⟩ := fresh j hj
      have hx : (settle u).slots.look j = some x := by rw [settle_slots w]; exact hx
      refine ⟨fun e => ?_, x, hx, admittedAnew_settle w ha⟩
      have live : x.state ≠ .fenced := by
        rcases ha.2.2.2.2.2.2.2.2.2.2.2 with h | h <;> rw [h.1] <;> decide
      have := slotsStand_foldl (fun s i => fenceRelease_stand i s) u.age u j x (by simp)
        (stand j x (by simp) (e.trans hx) live) live
      rw [beforeFills_slots] at empty
      rw [show (fenceStage u).slots.look j = some x from this] at empty
      cases empty

end held

/-! ### One scan through the stages -/

theorem expire_other {j k : Fin 8} (h : j ≠ k) (s : State) :
    (expire k s).scans.look j = s.scans.look j := by
  unfold expire
  dsimp only
  repeat' split
  all_goals simp [h]

theorem expire_congr {j : Fin 8} {s v : State} (hd : v.device = s.device)
    (hk : v.scans.look j = s.scans.look j) :
    (expire j v).scans.look j = (expire j s).scans.look j := by
  unfold expire
  dsimp only
  rw [hd, hk]
  repeat' split
  all_goals simp [hk]

theorem passComplete_other {j k : Fin 8} (h : j ≠ k) (s : State) :
    (passComplete k s).scans.look j = s.scans.look j := by
  unfold passComplete
  dsimp only
  repeat' split
  all_goals simp [h]

theorem passComplete_congr {j : Fin 8} {s v : State} (hd : v.device = s.device)
    (hk : v.scans.look j = s.scans.look j) :
    (passComplete j v).scans.look j = (passComplete j s).scans.look j := by
  unfold passComplete
  dsimp only
  rw [hd, hk]
  repeat' split
  all_goals simp [hk]

/-- A stage over the scans in which each has its own step alone. -/
theorem foldl_scan {f : Fin 8 → State → State} {s : State}
    (other : ∀ {j k} (_ : j ≠ k) (v : State), (f k v).scans.look j = v.scans.look j)
    (own : ∀ {j} {v : State}, v.device = s.device → v.scans.look j = s.scans.look j →
      (f j v).scans.look j = (f j s).scans.look j)
    (device : ∀ k v, (f k v).device = v.device) (j : Fin 8) :
    (allEight.foldl (fun s k => f k s) s).scans.look j = (f j s).scans.look j := by
  have past : ∀ (l : List (Fin 8)) (v : State), j ∉ l →
      (l.foldl (fun s k => f k s) v).scans.look j = v.scans.look j := by
    intro l
    induction l with
    | nil => exact fun _ _ => rfl
    | cons k l ih =>
      intro v hl
      obtain ⟨hk, hl⟩ := not_or.1 (List.mem_cons.not.1 hl)
      exact (ih _ hl).trans (other hk v)
  have reach : ∀ (l : List (Fin 8)) (v : State), l.Nodup → j ∈ l → v.device = s.device →
      v.scans.look j = s.scans.look j →
      (l.foldl (fun s k => f k s) v).scans.look j = (f j s).scans.look j := by
    intro l
    induction l with
    | nil => exact fun _ _ h => by cases h
    | cons k l ih =>
      intro v nodup hl hd hv
      obtain ⟨hk, nodup⟩ := List.nodup_cons.1 nodup
      by_cases e : j = k
      · subst e
        exact (past l _ hk).trans (own hd hv)
      · exact ih _ nodup ((List.mem_cons.1 hl).resolve_left e) ((device k v).trans hd)
          ((other e v).trans hv)
  exact reach _ s (by decide) (mem_allEight j) rfl rfl

theorem expiryStage_look (s : State) (j : Fin 8) :
    (expiryStage s).scans.look j = (expire j s).scans.look j :=
  foldl_scan expire_other expire_congr (fun k v => aside_device (expire_aside k v)) j

theorem passStage_look (s : State) (j : Fin 8) :
    (passStage s).scans.look j = (passComplete j s).scans.look j :=
  foldl_scan passComplete_other passComplete_congr (fun k v => aside_device (passComplete_aside k v)) j

theorem passComplete_inProgress {k : Fin 8} {s : State} (h : (s.scans.look k).inProgress = true) :
    passComplete k s = s := by simp [passComplete, h]

/-- The record of a scan before the fills of the event: a pass completion, then an expiry. -/
theorem beforeFills_scan (u : State) (k : Fin 8) :
    u.beforeFills.scans.look k
      = (expire k (deleteSqStage (passStage (fenceStage u)))).scans.look k := by
  simp only [State.beforeFills]
  exact expiryStage_look _ k

section scans

variable {u : State} (w : u.device = .ready ∨ u.device = .halting ∧ u.heldBack) {k : Fin 8}

include w

theorem settle_scan : filled (u.beforeFills.scans.look k) ((settle u).scans.look k) := by
  rw [settle_filled w]
  simpa using fills_filled 16 u.beforeFills k

/-- A pass in progress goes on: only fills advance NEXT TEMPLATE and OUTSTANDING (R144, R145). -/
theorem settle_inProgress (h : (u.scans.look k).inProgress = true) :
    ((settle u).scans.look k).state = (u.scans.look k).state
      ∧ ∃ m, ((settle u).scans.look k).nextTemplate = (u.scans.look k).nextTemplate + m
        ∧ ((settle u).scans.look k).outstanding = (u.scans.look k).outstanding + m := by
  have pass : (deleteSqStage (passStage (fenceStage u))).scans.look k = u.scans.look k := by
    rw [deleteSqStage_scans, passStage_look, passComplete_inProgress (by simpa using h),
      fenceStage_scans]
  have before : (u.beforeFills.scans.look k).state = (u.scans.look k).state
      ∧ (u.beforeFills.scans.look k).nextTemplate = (u.scans.look k).nextTemplate
      ∧ (u.beforeFills.scans.look k).outstanding = (u.scans.look k).outstanding := by
    rw [beforeFills_scan]
    unfold expire
    dsimp only
    rw [pass, if_pos h]
    split
    · simp
    · rw [pass]; exact ⟨rfl, rfl, rfl⟩
  obtain ⟨hs, hn, ho⟩ := before
  have fill := settle_scan w (k := k)
  generalize u.beforeFills.scans.look k = b at *
  generalize (settle u).scans.look k = d at *
  rcases fill with rfl | ⟨-, m, rfl⟩
  · exact ⟨hs, 0, hn, ho⟩
  · exact ⟨hs, m, by simp [hn], by simp [ho]⟩

end scans

/-! ### A DELETING SQ (R190) -/

/-- An SQ stands through the event, or was DELETING and becomes NONE, none of its slots being left. -/
theorem settle_sq {u : State} (w : u.device = .ready ∨ u.device = .halting ∧ u.heldBack) (q : Fin 8) :
    (settle u).sqs.look q = u.sqs.look q
      ∨ (settle u).sqs.look q = Sq.gone ∧ (u.sqs.look q).state = .deleting
        ∧ ∀ j x, (fenceStage u).slots.look j = some x → x.fromSq q = false := by
  rw [settle_filled w]
  simp only [writeStage_sqs, adminFetchStage_sqs, fills_sqs, State.beforeFills, expiryStage_sqs]
  unfold deleteSqStage
  split
  · rename_i p n _
    split
    · rename_i h
      obtain ⟨hd, hn⟩ := h
      by_cases e : q = p
      · subst e
        refine .inr ⟨by simp [complete], by simpa using hd, ?_⟩
        rw [anySlot_false] at hn
        intro j x hx
        exact hn j x (by simpa using hx)
      · exact .inl (by simp [complete, e])
    · exact .inl (by simp)
  · exact .inl (by simp)

end Sys2Proof.Machine
end

section
/-! Admission: fills, fetched entries, failed fetches and MARKs (chapter 2). -/

namespace Sys2Proof.Machine

-- Parallel elaboration of the one text reserves more memory than the check allows.
set_option Elab.async false

/-! ### A fill (R28, R29, R32) -/

theorem allSlots_sorted : allSlots.Pairwise (· < ·) := by decide

theorem lowestFree_lower {s : State} {i : Fin 16} (h : lowestFree s = some i) :
    ∀ j, j < i → s.slots.look j ≠ none := by
  unfold lowestFree at h
  obtain ⟨-, before, after, list, first⟩ := List.find?_eq_some_iff_append.1 h
  intro j hj
  have mem := mem_allSlots j
  have sorted := allSlots_sorted
  rw [list] at mem sorted
  rcases List.mem_append.1 mem with mem | mem
  · intro empty
    have := first j mem
    simp [empty] at this
  · rcases List.mem_cons.1 mem with rfl | mem
    · exact absurd hj (lt_irrefl _)
    · exact absurd hj (lt_asymm
        ((List.pairwise_cons.1 (List.pairwise_append.1 sorted).2.1).1 j mem))

theorem fillOne_of_sq {s : State} {i : Fin 16} {c : Fin 4} {n : Fin 15} {q : Fin 8}
    (free : lowestFree s = some i) (pick : pickSource s = some (c, n)) (hn : sourceAt n = .sq q) :
    fillOne s = { s.setSlot i (some (fetchingRec s q)) with
      rotation := s.rotation.put c n, age := s.age ++ [i] } := by
  simp [fillOne, free, pick, fillFrom, hn, State.setSlot, fetchingRec]

theorem fillOne_of_scan {s : State} {i : Fin 16} {c : Fin 4} {n : Fin 15} {k cq : Fin 8} {x : Template}
    (free : lowestFree s = some i) (pick : pickSource s = some (c, n)) (hn : sourceAt n = .scan k)
    (ht : (s.scans.look k).target = some cq)
    (hx : s.templates[(s.scans.look k).first + (s.scans.look k).nextTemplate]? = some x) :
    fillOne s = { (s.setSlot i (some (templateRec k (s.scans.look k) cq x))).setScan k
        { s.scans.look k with
          nextTemplate := (s.scans.look k).nextTemplate + 1,
          outstanding := (s.scans.look k).outstanding + 1 } with
      rotation := s.rotation.put c n, age := s.age ++ [i], examDue := true } := by
  simp [fillOne, free, pick, fillFrom, hn, ht, templateOf, hx, State.setSlot, State.setScan]

/-- Settles O17. -/
theorem slotFillAdmits : Obligations.SlotFillAdmits := by
  unfold Obligations.SlotFillAdmits
  intro i c n s reset ready free pick
  have empty := lowestFree_free free
  have able := (pickSource_eligible pick).1
  refine ⟨lowestFree_lower free, empty, ?_⟩
  obtain ⟨u, hu⟩ : ∃ u, u = fillOne s := ⟨_, rfl⟩
  have w : u.device = .ready ∨ u.device = .halting ∧ u.heldBack :=
    .inl (by rw [hu, aside_device (fillOne_aside s)]; exact ready)
  have stand : slotsStand [] s u := by rw [hu]; exact fillOne_stand s
  refine ⟨_, act_to reset hu.symm, ?_, ?_, ?_, fun q hq => ?_, fun k cq x hk ht hx => ?_⟩
  · rw [settle_aside_work w, hu, fillOne_aside]
  · exact slotsStand_trans stand (settle_slotsStand w)
  · exact sqsStand_via (fun q _ => by rw [hu, fillOne_sqs]) (settle_sqsStand w)
  · rw [fillOne_of_sq free pick hq] at hu
    have hi : u.slots.look i = some (fetchingRec s q) := by simp [hu]
    have hf : (fetchingRec s q).state ≠ .fenced := by simp [fetchingRec]
    simp only [eligible, hq, sqEligible_iff] at able
    obtain ⟨-, active, left, -⟩ := able
    have same : (settle u).sqs.look q = s.sqs.look q := by
      rw [settle_sqsStand w q (by simp) (by simp [hu, active])]
      simp [hu]
    refine ⟨scansStand_via (fun k _ => by simp [hu]) (settle_scansStand w),
      settle_joined w stand empty hi (by simp [hu]) hf ?_, settle_slotsStand w i _ (by simp) hi hf⟩
    simp [admittedAnew, fetchingRec, same, active, left]
  · rw [fillOne_of_scan free pick hk ht hx] at hu
    have hi : u.slots.look i = some (templateRec k (s.scans.look k) cq x) := by simp [hu]
    have hf : (templateRec k (s.scans.look k) cq x).state ≠ .fenced := by simp [templateRec]
    simp only [eligible, hk, scanEligible_iff] at able
    obtain ⟨-, running, -⟩ := able
    have going : u.scans.look k = { s.scans.look k with
        nextTemplate := (s.scans.look k).nextTemplate + 1,
        outstanding := (s.scans.look k).outstanding + 1 } := by simp [hu]
    obtain ⟨state, m, next, out⟩ := settle_inProgress w (k := k) (by simp [going, Scan.inProgress])
    rw [going] at state next out
    refine ⟨settle_examDue w (by simp [hu]), settle_joined w stand empty hi (by simp [hu]) hf ?_,
      ⟨m, next, out⟩, scansStand_via (fun j hj => by simp [hu, List.mem_singleton.not.1 hj])
        (settle_scansStand w), settle_slotsStand w i _ (by simp) hi hf⟩
    simp [admittedAnew, templateRec, state, running]

/-! ### A slot posted, through the event -/

/-- A slot of an SQ that is posted changes no scan. -/
theorem postSlot_scans_sq {s : State} {i : Fin 16} {r : SlotRec} {q : Fin 8} {index : Nat}
    {a : Option Admission} (hi : s.slots.look i = some r) (ho : r.origin = .sq q index a)
    (res : Result) : (postSlot i res s).scans = s.scans := by
  simp only [postSlot, hi, handOff, State.setSlot_slots, Table.look_put_same]
  split
  · simp
  · simp [freeSlot, ho]

/-- A slot that the command posts stands in POSTING and in its list after the event (R38). -/
theorem settle_posted {v : State} {i : Fin 16} {r : SlotRec} {res : Result}
    (hi : v.slots.look i = some r) (ha : (v.cqs.look r.targetCq).state = .active)
    (ho : r.orphaned = false)
    (w : (postSlot i res v).device = .ready
      ∨ (postSlot i res v).device = .halting ∧ (postSlot i res v).heldBack) :
    (settle (postSlot i res v)).slots.look i = some { r with state := .posting, result := some res }
      ∧ (v.cqs.look r.targetCq).list ++ [.slot i]
        <+: ((settle (postSlot i res v)).cqs.look r.targetCq).list := by
  have posted := postSlot_active (res := res) hi ha ho
  constructor
  · exact settle_slotsStand w i _ (by simp) (by rw [posted]; simp) (by simp)
  · have grown := settle_cqsGrow w r.targetCq (by simp)
    refine cqGrows_prefix grown ?_
    rw [posted]
    simp

/-! ### A fetched entry (R30) -/

section takeEntry

variable {i : Fin 16} {r : SlotRec} {e : Entry} {s : State}

theorem takeEntry_slots_ne {j : Fin 16} (h : j ≠ i) (o : Origin) :
    (takeEntry i r o e s).slots.look j = s.slots.look j := by
  unfold takeEntry
  dsimp only
  repeat' split
  all_goals simp [postSlot_slots_ne h, h]

theorem takeEntry_sqs (o : Origin) : (takeEntry i r o e s).sqs = s.sqs := by
  unfold takeEntry
  dsimp only
  repeat' split
  all_goals simp

theorem takeEntry_scans (q : Fin 8) (index : Nat) (a : Option Admission) :
    (takeEntry i r (.sq q index a) e s).scans = s.scans := by
  unfold takeEntry
  dsimp only
  repeat' split
  · rfl
  · rw [postSlot_scans_sq (Table.look_put_same _ _ _) rfl]; rfl
  · rfl
  · rw [postSlot_scans_sq (Table.look_put_same _ _ _) rfl]; rfl
  · rfl

end takeEntry

/-- The state in which a fetched entry is taken: HEAD and the counter of its SQ have advanced. -/
def State.fetched (s : State) (q : Fin 8) (index : Nat) : State :=
  s.setSq q { s.sqs.look q with
    head := nextIndex index (s.sqs.look q).size, seq := (s.sqs.look q).seq + 1 }

section fetched

variable {i : Fin 16} {e : Entry} {r : SlotRec} {q : Fin 8} {index : Nat} {a : Option Admission}
  {s : State} (hi : s.slots.look i = some r) (hs : r.state = .fetching)
  (ho : r.origin = .sq q index a)

include hi hs ho

theorem fetchDone_taken (ht : (s.sqs.look q).tail ≠ index) :
    fetchDone i e s = takeEntry i r
      (.sq q index (some { tag := entryTag e, seq := (s.sqs.look q).seq })) e (s.fetched q index) := by
  simp [fetchDone, hi, hs, ho, ht, State.fetched]

theorem fetchDone_withdrawn (ht : (s.sqs.look q).tail = index) : fetchDone i e s = freeSlot i s := by
  simp [fetchDone, hi, hs, ho, ht]

theorem fetchError_eq : fetchError i s = raiseEvent .sqFetchError q.val (s.sqs.look q).head
    (freeSlot i (s.setSq q { s.sqs.look q with
      state := if (s.sqs.look q).state = .active then .faulted else (s.sqs.look q).state })) := by
  simp [fetchError, hi, hs, ho]

end fetched

/-- Settles O18. -/
theorem fetchedMeasureEntersTheTable : Obligations.FetchedMeasureEntersTheTable := by
  unfold Obligations.FetchedMeasureEntersTheTable
  intro i e r q index a s reset other hi hs ho orphan ht live mark
  obtain ⟨o, hor⟩ : ∃ o, o = Origin.sq q index
    (some { tag := entryTag e, seq := (s.sqs.look q).seq }) := ⟨_, rfl⟩
  obtain ⟨u, hu⟩ : ∃ u, u = takeEntry i r o e (s.fetched q index) := ⟨_, rfl⟩
  have taken : fetchDone i e s = u := by rw [hu, hor]; exact fetchDone_taken hi hs ho ht
  have aside : u.aside = s.aside := by rw [hu, takeEntry_aside]; rfl
  have w := State.worksBut.of_frame (u := u) other (aside_device aside) fun j hj => by
    rw [hu, takeEntry_slots_ne hj]; rfl
  have sqs : u.sqs = (s.fetched q index).sqs := by rw [hu, takeEntry_sqs]
  have scans : u.scans = s.scans := by rw [hu, hor, takeEntry_scans]; rfl
  have noMark : ((entryRequest e).opcode == opMark) = false := by simpa [entryRequest] using mark
  refine ⟨_, act_to reset taken, ?_, ?_, ?_, ?_, ?_, ?_⟩
  · rw [settle_aside_work w, aside]
  · refine slotsStand_via (fun j hj => ?_) (settle_slotsStand w)
    rw [hu, takeEntry_slots_ne (List.mem_singleton.not.1 hj)]; rfl
  · exact scansStand_via (fun k _ => by rw [scans]) (settle_scansStand w)
  · rw [settle_sqsStand w q (by simp) (by simpa [sqs, State.fetched] using live), sqs]
    simp [State.fetched, nextIndex]
  · exact sqsStand_via (fun p hp => by simp [sqs, State.fetched, List.mem_singleton.not.1 hp])
      (settle_sqsStand w)
  · rintro r0 rfl
    refine ⟨fun clear valid => ?_, fun n clear fails active => ?_, fun d pending active => ?_⟩
    · obtain ⟨x, hx⟩ : ∃ x : SlotRec, x = { r with
          origin := o, request := some (entryRequest e), state := .waiting,
          needSet := some (entryRequest e).needs, currentRange := (entryRequest e).startRange } :=
        ⟨_, rfl⟩
      have eq : u = { (s.fetched q index).setSlot i (some x) with examDue := true } := by
        rw [hu, hx]; simp [takeEntry, clear, noMark, valid]
      refine ⟨settle_examDue w (by rw [eq]), ?_⟩
      rw [settle_slotsStand w i x (by simp) (by simp [eq]) (by simp [hx]), hx, hor]
    · obtain ⟨x, hx⟩ : ∃ x : SlotRec, x = { r with
          origin := o, request := some (entryRequest e), currentRange := .g0 } := ⟨_, rfl⟩
      have eq : u = postSlot i (invalidResult n) ((s.fetched q index).setSlot i (some x)) := by
        rw [hu, hx]; simp [takeEntry, clear, noMark, fails]
      have posted := settle_posted (v := (s.fetched q index).setSlot i (some x)) (i := i) (r := x) (by simp)
        (by rw [hx]; exact active) (by rw [hx]; exact orphan) (by rw [← eq]; exact w)
      rw [← eq, hx, hor] at posted
      exact posted
    · obtain ⟨x, hx⟩ : ∃ x : SlotRec, x = { r with
          origin := o, request := some (entryRequest e),
          currentRange := (entryRequest e).startRange } := ⟨_, rfl⟩
      have eq : u = postSlot i (abortedResult d .unknown) ((s.fetched q index).setSlot i (some x)) := by
        rw [hu, hx]; simp [takeEntry, pending, noMark]
      have posted := settle_posted (v := (s.fetched q index).setSlot i (some x)) (i := i) (r := x) (by simp)
        (by rw [hx]; exact active) (by rw [hx]; exact orphan) (by rw [← eq]; exact w)
      rw [← eq, hx, hor] at posted
      exact posted

/-! ### A fetch withdrawn or failed (R30, R31, R167) -/

theorem freeSlot_scans_sq {s : State} {i : Fin 16} {r : SlotRec} {q : Fin 8} {index : Nat}
    {a : Option Admission} (hi : s.slots.look i = some r) (ho : r.origin = .sq q index a) :
    (freeSlot i s).scans = s.scans := by
  simp [freeSlot, hi, ho]

theorem freeSlot_slots_ne {i j : Fin 16} (h : j ≠ i) (s : State) :
    (freeSlot i s).slots.look j = s.slots.look j := by
  simp [freeSlot_slots, h]

/-- Settles O19. -/
theorem withdrawnAndFailedFetches : Obligations.WithdrawnAndFailedFetches := by
  unfold Obligations.WithdrawnAndFailedFetches
  intro i e r q index a s reset other hi hs ho hcq
  constructor
  · intro ht
    obtain ⟨u, hu⟩ : ∃ u, u = freeSlot i s := ⟨_, rfl⟩
    have taken : fetchDone i e s = u := (fetchDone_withdrawn hi hs ho ht).trans hu.symm
    have aside : u.aside = s.aside := by rw [hu, freeSlot_aside]
    have slots : ∀ j, j ≠ i → u.slots.look j = s.slots.look j := fun j hj => by
      rw [hu, freeSlot_slots_ne hj]
    have w := State.worksBut.of_frame (u := u) other (aside_device aside) slots
    refine ⟨_, act_to reset taken, ?_, ?_, ?_, ?_, ?_, ?_⟩
    · rw [settle_aside_work w, aside]
    · exact slotsStand_via (fun j hj => slots j (List.mem_singleton.not.1 hj)) (settle_slotsStand w)
    · exact scansStand_via (fun k _ => by rw [hu, freeSlot_scans_sq hi ho]) (settle_scansStand w)
    · exact sqsStand_via (fun p _ => by rw [hu, freeSlot_sqs]) (settle_sqsStand w)
    · exact cqsGrow_via (fun c _ => by rw [hu, freeSlot_cqs]) (settle_cqsGrow w)
    · exact freed_of_free w (by simp [hu, freeSlot_slots])
        fun c => by rw [hu, freeSlot_listings]
  · obtain ⟨v, hv⟩ : ∃ v, v = freeSlot i (s.setSq q { s.sqs.look q with
        state := if (s.sqs.look q).state = .active then .faulted else (s.sqs.look q).state }) :=
      ⟨_, rfl⟩
    obtain ⟨u, hu⟩ : ∃ u, u = raiseEvent .sqFetchError q.val (s.sqs.look q).head v := ⟨_, rfl⟩
    have taken : fetchError i s = u := by rw [hu, hv]; exact fetchError_eq hi hs ho
    have aside : u.aside = s.aside := by rw [hu, raiseEvent_aside, hv, freeSlot_aside]; rfl
    have slots : ∀ j, j ≠ i → u.slots.look j = s.slots.look j := fun j hj => by
      rw [hu, raiseEvent_slots, hv, freeSlot_slots_ne hj]; rfl
    have w := State.worksBut.of_frame (u := u) other (aside_device aside) slots
    have cqs : v.cqs = s.cqs := by rw [hv, freeSlot_cqs]; rfl
    have raisedNow : u.cqs = s.cqs.put 0 ((s.cqs.look 0).withEvent .sqFetchError q.val
        (s.sqs.look q).head) := by
      rw [hu, raiseEvent_cqs _ _ _ (by rw [cqs]; exact hcq), cqs]
    obtain ⟨grow, took⟩ := raised_of_grow raisedNow (settle_cqsGrow w)
    have sqs : u.sqs = s.sqs.put q { s.sqs.look q with
        state := if (s.sqs.look q).state = .active then .faulted else (s.sqs.look q).state } := by
      rw [hu, raiseEvent_sqs, hv, freeSlot_sqs]; rfl
    have kept : (s.sqs.look q).state ≠ .active → u.sqs.look q = s.sqs.look q := fun h => by
      rw [sqs, Table.look_put_same, if_neg h]
    have free : u.slots.look i = none := by rw [hu, raiseEvent_slots, hv, freeSlot_slots]; simp
    refine ⟨_, act_to reset taken, ?_, ?_, ?_, ?_, grow, took, ?_, fun active => ?_, fun faulted => ?_,
      fun deleting => ?_⟩
    · rw [settle_aside_work w, aside]
    · exact slotsStand_via (fun j hj => slots j (List.mem_singleton.not.1 hj)) (settle_slotsStand w)
    · refine scansStand_via (fun k _ => ?_) (settle_scansStand w)
      rw [hu, raiseEvent_scans, hv, freeSlot_scans_sq (s := s.setSq q _) hi ho]; rfl
    · exact sqsStand_via (fun p hp => by simp [sqs, List.mem_singleton.not.1 hp]) (settle_sqsStand w)
    · exact freed_of_free w free fun c => by
        rw [hu, raiseEvent_listings, hv, freeSlot_listings]; exact Nat.le_refl _
    · rw [settle_sqsStand w q (by simp) (by simp [sqs, active]), sqs]
      simp [active]
    · have same := kept (by rw [faulted]; decide)
      rw [settle_sqsStand w q (by simp) (by simp [same, faulted]), same]
    · rw [← kept (by rw [deleting]; decide)]
      rcases settle_sq w q with stands | ⟨gone, -, none⟩
      · exact ⟨.inl stands, fun _ => stands⟩
      · refine ⟨.inr gone, ?_⟩
        rintro ⟨j, x, hj, hx, hq, hf⟩
        have left := slotsStand_foldl (fun s i => fenceRelease_stand i s) u.age u j x (by simp)
          ((slots j hj).trans hx) hf
        rw [none j x left] at hq
        cases hq

/-! ### MARKs (R36) -/

theorem fenceRelease_open {s : State} {i : Fin 16} {r : SlotRec} {q : Fin 8} {index : Nat}
    {a : Admission} (hi : s.slots.look i = some r) (hs : r.state = .fenced)
    (ho : r.origin = .sq q index (some a))
    (clear : ∀ j x, s.slots.look j = some x → x.earlierThan q a.seq = false) :
    fenceRelease i s = postSlot i (r.result.getD markResult) s := by
  have : fenceOpen s i = true := by
    have := anySlot_false.2 clear
    simp [fenceOpen, hi, hs, ho, this]
  simp [fenceRelease, this, hi]

/-- Settles O20. -/
theorem markIsFenced : Obligations.MarkIsFenced := by
  unfold Obligations.MarkIsFenced
  intro i e r q index s reset other hi orphan
  constructor
  · rintro ⟨a, ho⟩ hs ht mark ⟨j, x, hj, hx, hf, he⟩
    obtain ⟨adm, hadm⟩ : ∃ adm : Admission, adm = { tag := entryTag e, seq := (s.sqs.look q).seq } :=
      ⟨_, rfl⟩
    obtain ⟨held, hheld⟩ : ∃ held, held = r.pendingAbort.map fun d => abortedResult d .unknown :=
      ⟨_, rfl⟩
    obtain ⟨f, hfr⟩ : ∃ f : SlotRec, f = { r with
        state := .fenced, origin := .sq q index (some adm), request := some (entryRequest e),
        hold := entryFlag e 2, result := held } := ⟨_, rfl⟩
    obtain ⟨u, hu⟩ : ∃ u, u = (s.fetched q index).setSlot i (some f) := ⟨_, rfl⟩
    have taken : fetchDone i e s = u := by
      rw [fetchDone_taken hi hs ho ht, hu, hfr, hheld, hadm]
      have : ((entryRequest e).opcode == opMark) = true := by simp [entryRequest, mark]
      cases hp : r.pendingAbort <;> simp [takeEntry, hp, this, fencedRec]
    have slots : ∀ j, j ≠ i → u.slots.look j = s.slots.look j := fun j hj => by
      rw [hu]; simp [hj, State.fetched]
    have w := State.worksBut.of_frame (u := u) other (by rw [hu]; rfl) slots
    have earlier := settle_slotsStand w j x (by simp) ((slots j hj).trans hx) hf
    have stays := settle_held w (i := i) (r := f) (by simp [hu]) (by rw [hfr]) earlier
      (by rw [hadm]; exact he)
    refine ⟨_, held, act_to reset taken, ?_, ?_, ?_, ?_, fun h => ?_, fun d h => ?_, fun live => ?_, ?_, ?_⟩
    · rw [settle_aside_work w, hu]; rfl
    · exact slotsStand_via (fun j hj => slots j (List.mem_singleton.not.1 hj)) (settle_slotsStand w)
    · exact scansStand_via (fun k _ => by rw [hu]; rfl) (settle_scansStand w)
    · rw [stays, hfr, hadm]
    · rw [hheld, h]; rfl
    · rw [hheld, h]; rfl
    · rw [settle_sqsStand w q (by simp) (by simpa [hu, State.fetched] using live), hu]
      simp [State.fetched, nextIndex]
    · exact sqsStand_via (fun p hp => by simp [hu, State.fetched, List.mem_singleton.not.1 hp])
        (settle_sqsStand w)
    · exact cqsGrow_via (fun c _ => by rw [hu]; rfl) (settle_cqsGrow w)
  · intro a ho hs clear active
    obtain ⟨u, hu⟩ : ∃ u, u = postSlot i (r.result.getD markResult) s := ⟨_, rfl⟩
    have taken : fenceRelease i s = u := (fenceRelease_open hi hs ho clear).trans hu.symm
    have slots : ∀ j, j ≠ i → u.slots.look j = s.slots.look j := fun j hj => by
      rw [hu, postSlot_slots_ne hj]
    have w := State.worksBut.of_frame (u := u) other
      (aside_device (by rw [hu, postSlot_aside])) slots
    refine ⟨_, act_to reset taken, ?_, ?_, ?_, ?_, ?_, ?_⟩
    · rw [settle_aside_work w, hu, postSlot_aside]
    · exact slotsStand_via (fun j hj => slots j (List.mem_singleton.not.1 hj)) (settle_slotsStand w)
    · exact scansStand_via (fun k _ => by rw [hu, postSlot_scans_sq hi ho]) (settle_scansStand w)
    · exact sqsStand_via (fun p _ => by rw [hu, postSlot_sqs]) (settle_sqsStand w)
    · exact cqsGrow_trans (by rw [hu]; exact postSlot_grow i _ s) (settle_cqsGrow w)
    · subst hu
      exact settle_posted hi active orphan w

end Sys2Proof.Machine
end

section
/-! The order of correction (chapter 6) and the formats of records and entries (chapter 12). -/

namespace Sys2Proof.Machine

-- Parallel elaboration of the one text reserves more memory than the check allows.
set_option Elab.async false

/-! ### Rounding (R104) -/

/-- The rounded quotient of a size: nearest, and above it at a half. -/
theorem rounded_size (n b : Nat) (hb : 0 < b) :
    2 * ((2 * n + b) / (2 * b) * b) ≤ 2 * n + b
      ∧ 2 * n < 2 * ((2 * n + b) / (2 * b) * b) + b := by
  have low := Nat.div_mul_le_self (2 * n + b) (2 * b)
  have high := Nat.lt_div_mul_add (a := 2 * n + b) (b := 2 * b) (by omega)
  have e : (2 * n + b) / (2 * b) * (2 * b) = 2 * ((2 * n + b) / (2 * b) * b) := by ring
  omega

theorem roundDiv_nonneg {a : Int} (h : 0 ≤ a) (b : Nat) :
    roundDiv a b = ((2 * a.natAbs + b) / (2 * b) : Nat) := by
  unfold roundDiv
  dsimp only
  rw [if_neg (by omega)]

theorem roundDiv_neg (a : Int) {b : Nat} (hb : 0 < b) : roundDiv (-a) b = -roundDiv a b := by
  unfold roundDiv
  dsimp only
  rw [Int.natAbs_neg]
  rcases lt_trichotomy a 0 with h | rfl | h
  · rw [if_neg (by omega), if_pos h, neg_neg]
  · have : (2 * (0 : Int).natAbs + b) / (2 * b) = 0 := Nat.div_eq_of_lt (by omega)
    rw [this]
    rfl
  · rw [if_pos (by omega), if_neg (by omega)]

/-- Rounding is to the nearest integer, halves away from zero, and odd. -/
theorem roundDiv_spec (a : Int) (b : Nat) (hb : 0 < b) :
    2 * (roundDiv a b * b - a).natAbs ≤ b
      ∧ (2 * (roundDiv a b * b - a).natAbs = b → a.natAbs < (roundDiv a b).natAbs * b)
      ∧ roundDiv (-a) b = -roundDiv a b ∧ (0 ≤ a → 0 ≤ roundDiv a b) := by
  have main : ∀ x : Int, 0 ≤ x → 2 * (roundDiv x b * b - x).natAbs ≤ b
      ∧ (2 * (roundDiv x b * b - x).natAbs = b → x.natAbs < (roundDiv x b).natAbs * b) := by
    intro x hx
    obtain ⟨low, high⟩ := rounded_size x.natAbs b hb
    rw [roundDiv_nonneg hx]
    generalize (2 * x.natAbs + b) / (2 * b) = q at *
    rw [Int.natAbs_natCast, ← Int.natCast_mul]
    omega
  refine ⟨?_, ?_, roundDiv_neg a hb, fun h => by
    rw [roundDiv_nonneg h]; exact Int.natCast_nonneg _⟩
  all_goals
    rcases le_total 0 a with h | h
    · first
        | exact (main a h).1
        | exact (main a h).2
    · have := main (-a) (by omega)
      rw [roundDiv_neg a hb, Int.natAbs_neg, Int.natAbs_neg] at this
      have e : (-roundDiv a b * b - -a).natAbs = (roundDiv a b * b - a).natAbs := by
        rw [← Int.natAbs_neg]
        congr 1
        ring
      rw [e] at this
      first
        | exact this.1
        | exact this.2

/-! ### The order of correction (R103 to R108) -/

theorem overflowTest_fits {x v : Int} {generation aux : Nat} (h1 : -2147483648 ≤ x)
    (h2 : x ≤ 2147483647) : overflowTest (some x) v generation aux =
      { status := .success, value := x, generation := generation, aux := aux, sign := none } := by
  have a : ¬ maxValue < x := by unfold maxValue; omega
  have b : ¬ x < minValue := by unfold minValue; omega
  simp [overflowTest, a, b]

theorem overflowTest_above {x v : Int} {generation aux : Nat} (h : 2147483647 < x) :
    overflowTest (some x) v generation aux =
      { status := .overrange, value := 2147483647, generation := generation, aux := aux,
        sign := some .pos } := by
  simp [overflowTest, maxValue, h]

theorem overflowTest_below {x v : Int} {generation aux : Nat} (h : x < -2147483648) :
    overflowTest (some x) v generation aux =
      { status := .overrange, value := -2147483648, generation := generation, aux := aux,
        sign := some .neg } := by
  have a : ¬ 2147483647 < x := by omega
  simp [overflowTest, maxValue, minValue, a, h]

/-- Calibration decides when no sample was overranged, RAW is clear and no needed entry INVALID. -/
theorem correctionOutcome_calibrated {m : Mode} {a : Aperture} {g : Range} {samples : Nat} {sum : Int}
    {volt ref cur : Shadow} (h : neededInvalid m volt ref cur = false) :
    correctionOutcome m false a g samples sum none volt ref cur
      = calibratedOutcome m g (uncorrected a (averageCount sum samples)) volt ref cur := by
  simp [correctionOutcome, h]

theorem neededInvalid_iff {m : Mode} {volt ref cur : Shadow} : neededInvalid m volt ref cur = true ↔
    volt.valid = false ∨ (m = .ref ∧ ref.valid = false)
      ∨ ((m = .res2w ∨ m = .res4w) ∧ cur.valid = false) := by
  cases m <;> simp [neededInvalid, Mode.isResistance]

/-- The value that goes to the overflow test, by mode. -/
theorem calibratedOutcome_tested {m : Mode} {g : Range} {u v x : Int} {volt ref cur : Shadow}
    {aux : Nat} (hv : calibratedVoltage u volt = v)
    (h : ((m = .voltSe ∨ m = .voltDiff) ∧ x = v ∧ aux = 0) ∨ (m = .supply ∧ x = 4 * v ∧ aux = 0)
      ∨ ((m = .res2w ∨ m = .res4w) ∧ cur.wordA ≠ 0
          ∧ x = roundDiv (v * 10 ^ (9 - g.index)) cur.wordA.toNat ∧ aux = cur.generation)) :
    calibratedOutcome m g u volt ref cur = overflowTest (some x) v volt.generation aux := by
  have nonzero : cur.wordA ≠ 0 → cur.wordA.toNat ≠ 0 := fun h e => h (BitVec.eq_of_toNat_eq e)
  rcases h with ⟨rfl | rfl, rfl, rfl⟩ | ⟨rfl, rfl, rfl⟩ | ⟨rfl | rfl, hc, rfl, rfl⟩
  · simp [calibratedOutcome, hv]
  · simp [calibratedOutcome, hv]
  · simp [calibratedOutcome, hv]
  · simp [calibratedOutcome, hv, resistance, nonzero hc]
  · simp [calibratedOutcome, hv, resistance, nonzero hc]

/-- A current entry of 0 gives the end of the range by the sign of the voltage (R107). -/
theorem calibratedOutcome_noCurrent {m : Mode} {g : Range} {u v : Int} {volt ref cur : Shadow}
    (hv : calibratedVoltage u volt = v) (hm : m = .res2w ∨ m = .res4w) (hc : cur.wordA = 0) :
    calibratedOutcome m g u volt ref cur
      = if v < 0 then
          { status := .overrange, value := -2147483648, generation := volt.generation,
            aux := cur.generation, sign := some .neg }
        else
          { status := .overrange, value := 2147483647, generation := volt.generation,
            aux := cur.generation, sign := some .pos } := by
  rcases hm with rfl | rfl <;>
    simp [calibratedOutcome, hv, resistance, hc, overflowTest, maxValue, minValue]

/-- A REF is compared, not tested (R95, R108). -/
theorem calibratedOutcome_ref {g : Range} {u v : Int} {volt ref cur : Shadow}
    (hv : calibratedVoltage u volt = v) : calibratedOutcome .ref g u volt ref cur =
      { status := if refInside v ref.wordA.toInt then .success else .refOutOfTolerance,
        value := v, generation := volt.generation, aux := 0, sign := none } := by
  simp [calibratedOutcome, hv]

theorem refInside_iff {v r : Int} : refInside v r = true ↔ (v - r).natAbs * 2000 ≤ r.natAbs := by
  simp [refInside]

/-- Settles O32. -/
theorem correctionOrder : Obligations.CorrectionOrder := by
  unfold Obligations.CorrectionOrder
  refine ⟨fun a => by cases a <;> rfl, fun g => by cases g <;> exact ⟨rfl, rfl⟩,
    fun l => by cases l <;> exact ⟨rfl, rfl, rfl⟩, rfl, rfl, fun n => ⟨rfl, rfl⟩, roundDiv_spec, ?_⟩
  rintro m raw a g samples sum seen volt ref cur o rfl
  refine ⟨?_, ?_, ?_, ?_⟩
  · rintro sg rfl
    cases sg <;> exact ⟨rfl, rfl, rfl, rfl, rfl⟩
  · rintro rfl rfl
    rfl
  · rintro rfl rfl invalid
    simp [correctionOutcome, neededInvalid_iff.2 invalid, countOutcome, averageCount]
  · rintro v hv rfl rfl valid
    have hv : calibratedVoltage (uncorrected a (averageCount sum samples)) volt = v := hv.symm
    have calibrated : ¬ ((m = .ref ∧ ref.valid = false)
          ∨ ((m = .res2w ∨ m = .res4w) ∧ cur.valid = false)) →
        correctionOutcome m false a g samples sum none volt ref cur
          = calibratedOutcome m g (uncorrected a (averageCount sum samples)) volt ref cur := fun h =>
      correctionOutcome_calibrated (Bool.eq_false_iff.2 fun e =>
        (neededInvalid_iff.1 e).elim (fun e => by simp [valid] at e) h)
    refine ⟨fun x aux which => ?_, fun hm hc zero => ?_, ?_⟩
    · have tested : correctionOutcome m false a g samples sum none volt ref cur
          = overflowTest (some x) v volt.generation aux := by
        rw [calibrated, calibratedOutcome_tested hv]
        · rcases which with h | h | ⟨h1, -, h2⟩
          · exact .inl h
          · exact .inr (.inl h)
          · exact .inr (.inr ⟨h1, h2⟩)
        · rcases which with ⟨rfl | rfl, -⟩ | ⟨rfl, -⟩ | ⟨rfl | rfl, hc, -⟩ <;> simp_all
      rw [tested]
      exact ⟨overflowTest_fits, overflowTest_above, overflowTest_below⟩
    · rw [calibrated, calibratedOutcome_noCurrent hv hm zero]
      rcases hm with rfl | rfl <;> simp [hc]
    · rintro rfl hr
      rw [calibrated (by simp [hr]), calibratedOutcome_ref hv]
      refine ⟨rfl, rfl, rfl, rfl, ?_, ?_⟩
      · rw [← refInside_iff]
        cases refInside v ref.wordA.toInt <;> simp
      · cases refInside v ref.wordA.toInt <;> simp

/-! ### Formats (R203, R204) -/

theorem record_bytes (r : Record) : r.bytes.length = 32
    ∧ (∀ n, n < 4 → r.bytes[n]? = some (r.value.extractLsb' (8 * n) 8)
        ∧ r.bytes[4 + n]? = some (r.aux.extractLsb' (8 * n) 8)
        ∧ r.bytes[8 + n]? = some (r.pass.extractLsb' (8 * n) 8))
    ∧ (∀ n, n < 2 → r.bytes[12 + n]? = some (r.id.extractLsb' (8 * n) 8)
        ∧ r.bytes[14 + n]? = some (r.generation.extractLsb' (8 * n) 8))
    ∧ ∀ n, 26 ≤ n → n < 31 → r.bytes[n]? = some 0 := by
  refine ⟨rfl, fun n hn => ?_, fun n hn => ?_, fun n h1 h2 => ?_⟩
  · interval_cases n <;> exact ⟨rfl, rfl, rfl⟩
  · interval_cases n <;> exact ⟨rfl, rfl⟩
  · interval_cases n <;> rfl

theorem Request.startRange_of_code {q : Request} {g : Range} (h : q.range.toNat = g.index) :
    q.startRange = g := by
  cases g <;> simp only [Range.index] at h <;> simp [Request.startRange, rangeOf, h]

theorem Request.startRange_auto {q : Request} (h : q.range.toNat = 4) : q.startRange = .g0 := by
  simp [Request.startRange, rangeOf, h]

theorem Request.levelV_of_code {q : Request} {l : Level} (h : q.level.toNat = l.index) :
    q.levelV = l := by
  cases l <;> simp only [Level.index] at h <;> simp [Request.levelV, h]

/-- Settles O36. -/
theorem recordLayout : Obligations.RecordLayout := by
  unfold Obligations.RecordLayout
  refine ⟨fun r => ?_, ⟨rfl, rfl, rfl, rfl, rfl, rfl⟩,
    ⟨rfl, rfl, rfl, rfl, rfl, rfl, rfl, rfl, rfl, rfl, rfl, rfl⟩, ⟨rfl, rfl⟩,
    ⟨rfl, rfl, rfl, rfl, rfl, rfl, rfl⟩, ⟨rfl, rfl, rfl⟩, ⟨rfl, rfl, rfl, rfl⟩, ⟨rfl, rfl, rfl, rfl⟩,
    fun g => by cases g <;> rfl, fun e n => ⟨rfl, rfl, rfl, rfl, rfl, rfl, rfl, rfl, fun b => rfl, ?_⟩⟩
  · obtain ⟨length, words, halves, zeros⟩ := record_bytes r
    exact ⟨length, words, halves, rfl, rfl, rfl, rfl, rfl, rfl, rfl, rfl, rfl, rfl, zeros, rfl⟩
  · intro q
    refine ⟨fun m h => ?_, fun g => Request.startRange_of_code, Request.startRange_auto, fun a h => ?_,
      fun l => Request.levelV_of_code⟩
    · cases m <;> simp only at h <;> simp [Request.modeV, modeOf, h]
    · cases a <;> simp only at h <;> simp [Request.apertureV, h]

end Sys2Proof.Machine
end

section
/-! The converters at work: the end of settling, autorange steps, samples, and the end of a request's
conversions (chapters 5 and 6). -/

namespace Sys2Proof.Machine

-- Parallel elaboration of the one text reserves more memory than the check allows.
set_option Elab.async false

theorem ByConv.put_put {α : Type} (p : ByConv α) (c : Conv) (x y : α) :
    (p.put c x).put c y = p.put c y := by cases c <;> rfl

/-! ### What a command on one converter leaves -/

/-- A slot that is neither in POSTING nor FENCED keeps a part at work at work. -/
theorem State.atWork.of_slot {s u : State} {i : Fin 16} {x : SlotRec} (h : s.atWork)
    (hd : u.device = s.device) (hx : u.slots.look i = some x) (hp : x.state ≠ .posting)
    (hf : x.state ≠ .fenced) : u.device = .ready ∨ u.device = .halting ∧ u.heldBack := by
  rw [hd]
  exact h.2.imp_right fun ⟨hd, _⟩ => ⟨hd, i, x, hx, hp, hf⟩

/-- A command that writes the converters and the record of the slot that one of them serves. -/
theorem act_serves {f : State → State} {s u : State} {i : Fin 16} {x : SlotRec} {convs : ByConv ConvRec}
    (work : s.atWork) (hf : f s = u) (hu : u = { s.setSlot i (some x) with convs := convs })
    (hp : x.state ≠ .posting) (hfe : x.state ≠ .fenced) :
    ∃ t, act f s = .next t ∧ t.slots.look i = some x ∧ t.aside = { s with convs := convs }.aside
      ∧ slotsStand [i] s t ∧ scansStand [] s t ∧ sqsStand [] s t ∧ cqsGrow [] s t := by
  have hx : u.slots.look i = some x := by simp [hu]
  have w := work.of_slot (u := u) (by rw [hu]; rfl) hx hp hfe
  refine ⟨_, act_to work.1 hf, settle_slotsStand w i x (by simp) hx hfe, ?_, ?_, ?_, ?_, ?_⟩
  · rw [settle_aside_work w, hu]; rfl
  · exact slotsStand_via (fun j hj => by simp [hu, List.mem_singleton.not.1 hj]) (settle_slotsStand w)
  · exact scansStand_via (fun k _ => by rw [hu]; rfl) (settle_scansStand w)
  · exact sqsStand_via (fun q _ => by rw [hu]; rfl) (settle_sqsStand w)
  · exact cqsGrow_via (fun c _ => by rw [hu]; rfl) (settle_cqsGrow w)

/-- A command that writes the converters and their claims alone. -/
theorem act_turns {f : State → State} {s u : State} {convs : ByConv ConvRec}
    {claims : ByConv ConvClaim} {due : Bool} (work : s.atWork) (hf : f s = u)
    (hu : u = { s with convs := convs, convClaims := claims, examDue := due }) :
    ∃ t, act f s = .next t ∧ (due = true → t.examDue = true)
      ∧ t.aside = { s with convs := convs, convClaims := claims }.aside
      ∧ slotsStand [] s t ∧ scansStand [] s t ∧ sqsStand [] s t ∧ cqsGrow [] s t := by
  have w : u.device = .ready ∨ u.device = .halting ∧ u.heldBack := by rw [hu]; exact work.2
  refine ⟨_, act_to work.1 hf, fun h => settle_examDue w (by rw [hu]; exact h), ?_, ?_, ?_, ?_, ?_⟩
  · rw [settle_aside_work w, hu]; rfl
  · exact slotsStand_via (fun j _ => by rw [hu]) (settle_slotsStand w)
  · exact scansStand_via (fun k _ => by rw [hu]) (settle_scansStand w)
  · exact sqsStand_via (fun q _ => by rw [hu]) (settle_sqsStand w)
  · exact cqsGrow_via (fun c _ => by rw [hu]) (settle_cqsGrow w)

/-! ### The end of settling (R74) -/

section served

variable {s : State} {c : Conv} {i : Fin 16} {r : SlotRec} {q : Request}
  (serves : (s.convs.look c).serving = .slot i) (hr : s.slots.look i = some r)
  (hq : r.request = some q)

include serves hr hq

theorem servedNoAutozero_eq : servedNoAutozero s c = q.noAutozero := by
  simp [servedNoAutozero, serves, hr, hq]

theorem servedAperture_eq : servedAperture s c = q.apertureV := by
  simp [servedAperture, serves, hr, hq]

end served

theorem beginConversion_serving (r : ConvRec) (noAutozero : Bool) :
    (r.beginConversion noAutozero).serving = r.serving := by
  unfold ConvRec.beginConversion
  split <;> rfl

theorem settlingEnd_slot {s : State} {c : Conv} {i : Fin 16} {r : SlotRec}
    (hs : (s.convs.look c).state = .settling) (serves : (s.convs.look c).serving = .slot i)
    (hr : s.slots.look i = some r) : settlingEnd c s =
      { s.setSlot i (some { r with state := .converting }) with
        convs := s.convs.put c ((s.convs.look c).beginConversion (servedNoAutozero s c)) } := by
  simp [settlingEnd, hs, enterConverting, beginConversion_serving, serves, hr, State.setSlot,
    State.setConv]

theorem settlingEnd_startUp {s : State} {c : Conv} (hs : (s.convs.look c).state = .settling)
    (serves : (s.convs.look c).serving = .startUp) : settlingEnd c s =
      s.setConv c { s.convs.look c with state := .autozero, phaseTimer := some 1000 } := by
  have skips : servedNoAutozero s c = false := by simp [servedNoAutozero, serves]
  simp [settlingEnd, hs, enterConverting, serves, skips, ConvRec.beginConversion, autozeroTime]

/-- While a check is running, the steps of STARTING leave its converter alone. -/
theorem settle_running {u : State} {c : Conv} (h : u.device = .starting) (e : u.empty)
    (hc : u.checks.look c = .running) : settle u = checkStage u
      ∧ (checkStage u).convs.look c = u.convs.look c ∧ (checkStage u).conns.look c = u.conns.look c
      ∧ (checkStage u).checks.look c = .running := by
  have still : startCheck c u = u := startCheck_waits (.inl (by rw [hc]; nofun))
  obtain ⟨h1, h2, h3⟩ := checkStage_look u c
  rw [still] at h1 h2 h3
  exact ⟨settle_checks (c := c) h e (by rw [hc]; nofun), h2, h3, h1.trans hc⟩

/-- A command on the converter of a running check, in STARTING. -/
theorem act_check {f : State → State} {s : State} {c : Conv} {x : ConvRec} (reset : s.heldInReset = false)
    (starting : s.device = .starting) (law : DeviceLaw s) (serves : (s.convs.look c).serving = .startUp)
    (hf : f s = s.setConv c x) :
    ∃ t, act f s = .next t ∧ t.convs.look c = x ∧ t.conns.look c = s.conns.look c
      ∧ t.device = .starting ∧ t.checks.look c = .running ∧ t.store = s.store ∧ t.slots = s.slots
      ∧ t.convClaims = s.convClaims := by
  have empty : s.empty := law.empty (Device.rests (.inr (.inr starting)))
  obtain ⟨steps, convs, conns, checks⟩ := settle_running (u := s.setConv c x) (c := c) starting
    (empty.of_eq rfl rfl rfl rfl rfl) (law.2.2.2 c serves)
  have frame := checkStage_eq (s.setConv c x)
  refine ⟨_, act_to reset hf, ?_⟩
  rw [steps]
  refine ⟨?_, conns, ?_, checks, ?_, ?_, ?_⟩
  · rw [convs]; simp [State.setConv]
  · rw [frame]; exact starting
  · rw [frame]; rfl
  · rw [frame]; rfl
  · rw [frame]; rfl

/-- Settles O26. -/
theorem settlingEndBeginsConversion : Obligations.SettlingEndBeginsConversion := by
  unfold Obligations.SettlingEndBeginsConversion
  intro c s reset settling
  refine ⟨fun i r q work serves hr hq => ?_, fun starting law serves => ?_⟩
  · have eq := settlingEnd_slot settling serves hr
    rw [servedNoAutozero_eq serves hr hq] at eq
    obtain ⟨t, ht, slot, aside, slots, scans, sqs, cqs⟩ :=
      act_serves (f := settlingEnd c) work eq rfl (by simp) (by simp)
    exact ⟨t, ht, aside, slot, slots, scans, sqs, cqs⟩
  · obtain ⟨t, ht, convs, -, -, -, store, slots, -⟩ :=
      act_check (f := settlingEnd c) reset starting law serves (settlingEnd_startUp settling serves)
    exact ⟨t, ht, convs, store, slots⟩

/-! ### The end of a run-down (R80 to R86) -/

/-- The state with COUNTER of converter `c` at `n` (R80). -/
def State.counted (s : State) (c : Conv) (n : Nat) : State :=
  s.setConv c { s.convs.look c with counter := n }

theorem endConversion_slot {s : State} {c : Conv} {i : Fin 16}
    (serves : (s.convs.look c).serving = .slot i) (ovr : Bool) (n : Nat) :
    endConversion c ovr n s = endSlotConversion c i ovr n (s.counted c n) := by
  simp [endConversion, State.counted, State.setConv, serves]

/-- An autorange conversion that takes a step, to range `g`. -/
theorem endSlotConversion_steps {s : State} {c : Conv} {i : Fin 16} {r : SlotRec} {q : Request}
    {ovr : Bool} {n : Nat} {g : Range} (hr : s.slots.look i = some r) (hq : r.request = some q)
    (auto : q.range.toNat = 4) (none : r.samplesDone = 0)
    (step : autoDecision q.apertureV (s.convs.look c).currentRange r.steps ovr n = .wider
        ∧ g = (s.convs.look c).currentRange.wider
      ∨ autoDecision q.apertureV (s.convs.look c).currentRange r.steps ovr n = .narrower
        ∧ g = (s.convs.look c).currentRange.narrower) :
    endSlotConversion c i ovr n s = rangeStep c i r g s := by
  have auto : q.isAuto = true := by simp [Request.isAuto, auto]
  rcases step with ⟨h, rfl⟩ | ⟨h, rfl⟩ <;> simp [endSlotConversion, hr, hq, auto, none, h]

/-- Any other conversion is a sample. -/
theorem endSlotConversion_samples {s : State} {c : Conv} {i : Fin 16} {r : SlotRec} {q : Request}
    {ovr : Bool} {n : Nat} (hr : s.slots.look i = some r) (hq : r.request = some q)
    (final : q.range.toNat ≠ 4 ∨ r.samplesDone ≠ 0
      ∨ autoDecision q.apertureV (s.convs.look c).currentRange r.steps ovr n = .final) :
    endSlotConversion c i ovr n s
      = takeSample c i r q ovr (signedCount (s.convs.look c).polarity n) s := by
  unfold endSlotConversion
  rw [hr]
  dsimp only
  rw [hq]
  dsimp only
  split
  · rename_i h
    rcases final with e | e | e
    · exact absurd (by simpa [Request.isAuto] using h.1) e
    · exact absurd h.2 e
    · rw [e]
  · rfl

theorem rangeStep_counted {s : State} (c : Conv) (i : Fin 16) (r : SlotRec) (g : Range) (n : Nat) :
    rangeStep c i r g (s.counted c n) =
      { s.setSlot i (some { r with steps := r.steps + 1, currentRange := g }) with
        convs := s.convs.put c { s.convs.look c with
          state := .ranging, currentRange := g, phaseTimer := some 500, counter := n } } := by
  simp [rangeStep, State.counted, State.setSlot, State.setConv, ByConv.put_put, rangeSettle]

theorem runDownEnd_counts {s : State} {c : Conv} {n : Nat} (hs : (s.convs.look c).state = .runDown)
    (hn : n < (servedAperture s c).limit) : runDownEnd c n s = endConversion c false n s := by
  simp [runDownEnd, hs, hn]

theorem runDownEnd_late {s : State} {c : Conv} {n : Nat} (hs : (s.convs.look c).state = .runDown)
    (hn : (servedAperture s c).limit ≤ n) : runDownEnd c n s = runDownOverrange c s := by
  simp [runDownEnd, runDownOverrange, hs, Nat.not_lt.2 hn]

theorem runDownOverrange_eq {s : State} {c : Conv} (hs : (s.convs.look c).state = .runDown) :
    runDownOverrange c s = endConversion c true (servedAperture s c).limit s := by
  simp [runDownOverrange, hs]

theorem autoDecision_wider {a : Aperture} {g : Range} {steps n : Nat} (hg : g ≠ .g0) (hs : steps < 3) :
    autoDecision a g steps true n = .wider := by
  simp [autoDecision, hg, stepLimit, hs]

theorem autoDecision_narrower {a : Aperture} {g : Range} {steps n : Nat} (hg : g ≠ .g3)
    (hs : steps < 3) (hn : 12 * n < a.counts) : autoDecision a g steps false n = .narrower := by
  simp [autoDecision, hg, stepLimit, hs, hn]

theorem autoDecision_final {a : Aperture} {g : Range} {steps n : Nat} {ovr : Bool}
    (h : steps = 3 ∨ ovr = false ∧ (a.counts ≤ 12 * n ∨ g = .g3) ∨ ovr = true ∧ g = .g0) :
    autoDecision a g steps ovr n = .final := by
  unfold autoDecision stepLimit
  rcases h with rfl | ⟨rfl, h | rfl⟩ | ⟨rfl, rfl⟩
  · simp
  · simp [Nat.not_lt.2 h]
  · simp
  · simp

/-- Settles O28. -/
theorem autorangeSteps : Obligations.AutorangeSteps := by
  unfold Obligations.AutorangeSteps
  refine ⟨⟨rfl, rfl, rfl, rfl, rfl, rfl⟩, ?_⟩
  intro c n i r q s work runDown serves hr converting hq auto none steps
  have aperture := servedAperture_eq serves hr hq
  have live : ∀ g, ({ r with steps := r.steps + 1, currentRange := g } : SlotRec).state ≠ .posting
      ∧ ({ r with steps := r.steps + 1, currentRange := g } : SlotRec).state ≠ .fenced := fun g => by
    simp [converting]
  have same : ∀ n, ((s.counted c n).convs.look c).currentRange = (s.convs.look c).currentRange :=
    fun n => by simp [State.counted, State.setConv]
  refine ⟨fun wide => ?_, fun narrow few => ?_⟩
  · have eq : runDownOverrange c s = rangeStep c i r (s.convs.look c).currentRange.wider
        (s.counted c q.apertureV.limit) := by
      rw [runDownOverrange_eq runDown, aperture, endConversion_slot serves]
      refine endSlotConversion_steps hr hq auto none (.inl ⟨?_, by rw [same]⟩)
      rw [same]
      exact autoDecision_wider wide steps
    exact act_serves (f := runDownOverrange c) work eq (rangeStep_counted c i r _ _) (live _).1
      (live _).2
  · have eq : runDownEnd c n s = rangeStep c i r (s.convs.look c).currentRange.narrower
        (s.counted c n) := by
      rw [runDownEnd_counts runDown (by rw [aperture, Aperture.limit]; omega),
        endConversion_slot serves]
      refine endSlotConversion_steps hr hq auto none (.inr ⟨?_, by rw [same]⟩)
      rw [same]
      exact autoDecision_narrower narrow steps few
    exact act_serves (f := runDownEnd c n) work eq (rangeStep_counted c i r _ _) (live _).1
      (live _).2

/-! ### Samples (R83, R84) -/

/-- The slot record after a sample of this count. -/
def SlotRec.sampled (r : SlotRec) (cv : ConvRec) (ovr : Bool) (n : Nat) : SlotRec :=
  { r with
    samplesDone := r.samplesDone + 1
    sum := r.sum + signedCount cv.polarity n
    overrangeSeen := if ovr then some cv.polarity else r.overrangeSeen
    currentRange := cv.currentRange }

/-- What a run-down of `n` counts that is a sample leads to. -/
theorem endConversion_samples {s : State} {c : Conv} {i : Fin 16} {r : SlotRec} {q : Request}
    {ovr : Bool} {n : Nat} (serves : (s.convs.look c).serving = .slot i)
    (hr : s.slots.look i = some r) (hq : r.request = some q)
    (final : q.range.toNat ≠ 4 ∨ r.samplesDone ≠ 0 ∨ r.steps = 3
      ∨ ovr = false ∧ (q.apertureV.counts ≤ 12 * n ∨ (s.convs.look c).currentRange = .g3)
      ∨ ovr = true ∧ (s.convs.look c).currentRange = .g0) :
    endConversion c ovr n s
      = takeSample c i r q ovr (signedCount (s.convs.look c).polarity n) (s.counted c n) := by
  have same : (s.counted c n).convs.look c = { s.convs.look c with counter := n } := by
    simp [State.counted, State.setConv]
  rw [endConversion_slot serves, endSlotConversion_samples (s := s.counted c n) (q := q) hr hq]
  · rw [same]
  · rw [same]
    exact final.imp_right (Or.imp_right autoDecision_final)

theorem takeSample_next {s : State} {c : Conv} {i : Fin 16} {r : SlotRec} {q : Request} {n : Nat}
    (more : r.samplesDone + 1 ≠ q.samples.toNat) :
    takeSample c i r q false (signedCount (s.convs.look c).polarity n) (s.counted c n) =
      { s.setSlot i (some (r.sampled (s.convs.look c) false n)) with
        convs := s.convs.put c
          (({ s.convs.look c with counter := n } : ConvRec).beginConversion q.noAutozero) } := by
  simp [takeSample, more, State.counted, State.setConv, State.setSlot, SlotRec.sampled,
    ByConv.put_put]

/-- Settles O29. -/
theorem sampleCounts : Obligations.SampleCounts := by
  unfold Obligations.SampleCounts
  intro c n i r q s work runDown serves hr converting hq few more final
  have eq : runDownEnd c n s = takeSample c i r q false (signedCount (s.convs.look c).polarity n)
      (s.counted c n) := by
    rw [runDownEnd_counts runDown (by rw [servedAperture_eq serves hr hq]; exact few)]
    refine endConversion_samples serves hr hq ?_
    tauto
  obtain ⟨t, ht, slot, aside, stands⟩ := act_serves (f := runDownEnd c n) work eq
    (takeSample_next more) (by simp [SlotRec.sampled, converting])
    (by simp [SlotRec.sampled, converting])
  exact ⟨t, ht, slot, aside, stands⟩

end Sys2Proof.Machine
end

section
/-! The end of a request's conversions, and REF results (sections 5.3, 5.8 and 6.1 to 6.7). -/

namespace Sys2Proof.Machine

-- Parallel elaboration of the one text reserves more memory than the check allows.
set_option Elab.async false

/-! ### The release at the last sample (R58, R85) -/

/-- The state in which the conversions of slot `i` have ended: converter `c` IDLE and free, the front
end released, the slot holding `x`. -/
def State.requestEnded (s : State) (c : Conv) (i : Fin 16) (source : Option SourceId)
    (terms : List (Fin 16 × ClaimKind)) (x : SlotRec) (n : Nat) (degraded : Bool) : State :=
  releaseFrontEnd i { conv := c, source := source } terms
    { s.setSlot i (some x) with
      convs := s.convs.put c { s.convs.look c with
        state := .idle, serving := .nothing, phaseTimer := none, counter := n, degraded := degraded }
      convClaims := s.convClaims.put c .free }

theorem raiseDegraded_same {c : Conv} {before after : Bool} {value : Int} {s : State}
    (h : before = after) : raiseDegraded c before after value s = s := by simp [raiseDegraded, h]

theorem raiseDegraded_changed {c : Conv} {before after : Bool} {value : Int} {s : State}
    (h : before ≠ after) : raiseDegraded c before after value s =
      raiseEvent (if after then .converterDegraded else .converterRestored) (convObject c) value s := by
  cases after <;> simp [raiseDegraded, h]

/-- A flag's event changes CQ0 alone. -/
theorem raiseDegraded_frame (c : Conv) (before after : Bool) (value : Int) (s : State) :
    (raiseDegraded c before after value s).aside = s.aside
      ∧ (raiseDegraded c before after value s).slots = s.slots
      ∧ (raiseDegraded c before after value s).scans = s.scans
      ∧ (raiseDegraded c before after value s).sqs = s.sqs
      ∧ (raiseDegraded c before after value s).examDue = s.examDue := by
  by_cases h : before = after
  · rw [raiseDegraded_same h]; exact ⟨rfl, rfl, rfl, rfl, rfl⟩
  · rw [raiseDegraded_changed h]; simp

/-- The outcome and the flag that the last sample gives. -/
def State.degradedBy (s : State) (c : Conv) (q : Request) (o : Corrected) : Bool :=
  if q.modeV = .ref then degradedAfter (s.convs.look c).degraded q.raw o.status
  else (s.convs.look c).degraded

/-- The record of a slot whose conversions have ended with the outcome `o`. -/
def SlotRec.corrected (x : SlotRec) (q : Request) (o : Corrected) (degraded : Bool) : SlotRec :=
  { x with
    state := .correcting, result := some (o.result (stampFlags q.raw q.isAuto degraded o)) }

theorem takeSample_last {s : State} {c : Conv} {i : Fin 16} {r : SlotRec} {q : Request} {g : Grant}
    {ovr : Bool} {n : Nat} {o : Corrected} {degraded : Bool}
    (last : ovr = true ∨ r.samplesDone + 1 = q.samples.toNat) (hg : r.grant = some g)
    (ho : o = correctedOf s c (r.sampled (s.convs.look c) ovr n) q)
    (hd : degraded = s.degradedBy c q o) :
    takeSample c i r q ovr (signedCount (s.convs.look c).polarity n) (s.counted c n) =
      raiseDegraded c (s.convs.look c).degraded degraded o.value
        (s.requestEnded c i g.source r.terms
          ((r.sampled (s.convs.look c) ovr n).corrected q o degraded) n degraded) := by
  have ends : ∀ a b : State, (if ovr = true ∨ r.samplesDone + 1 = q.samples.toNat then a else b) = a :=
    fun a b => if_pos last
  have counted : (s.counted c n).convs.look c = { s.convs.look c with counter := n } := by
    simp [State.counted, State.setConv]
  unfold takeSample
  simp only [counted, ends]
  subst ho hd
  simp [endRequest, hg, correctSlot, State.requestEnded, State.degradedBy, SlotRec.corrected,
    SlotRec.sampled, SlotRec.terms, releaseFrontEnd, correctedOf, State.counted, State.setConv,
    State.setSlot, ByConv.put_put]

/-- What the end of a request's conversions leaves after the event. -/
def conversionsEnded (c : Conv) (i : Fin 16) (source : Option SourceId)
    (terms : List (Fin 16 × ClaimKind)) (x : SlotRec) (n : Nat) (degraded : Bool) (s t : State) : Prop :=
  t.slots.look i = some x
    ∧ t.convs.look c = { s.convs.look c with
        state := .idle, serving := .nothing, phaseTimer := none, counter := n, degraded := degraded }
    ∧ t.convClaims.look c = .free ∧ t.conns.look c = ConnSet.rest ∧ t.examDue = true
    ∧ (∀ y, source = some y → t.sourceClaims.look y = none ∧ t.sources.look y = .off)
    ∧ (∀ term, term ∈ terms.map Prod.fst → (t.termClaims.look term).without i)
    ∧ t.control = s.control ∧ t.store = s.store ∧ t.templates = s.templates
    ∧ slotsStand [i] s t ∧ scansStand [] s t ∧ sqsStand [] s t

theorem act_ends {f : State → State} {s : State} {c : Conv} {i : Fin 16} {source : Option SourceId}
    {terms : List (Fin 16 × ClaimKind)} {x : SlotRec} {n : Nat} {degraded : Bool} {value : Int}
    (work : s.atWork) (hx : x.state = .correcting)
    (hf : f s = raiseDegraded c (s.convs.look c).degraded degraded value
      (s.requestEnded c i source terms x n degraded)) :
    ∃ t, act f s = .next t ∧ conversionsEnded c i source terms x n degraded s t
      ∧ ((s.convs.look c).degraded = degraded → cqsGrow [] s t)
      ∧ ((s.convs.look c).degraded ≠ degraded → (s.cqs.look 0).state = .active →
          cqsGrow [0] s t
            ∧ raised (if degraded then .converterDegraded else .converterRestored) (convObject c)
              value s t) := by
  obtain ⟨v, hv⟩ : ∃ v, v = s.requestEnded c i source terms x n degraded := ⟨_, rfl⟩
  rw [← hv] at hf
  obtain ⟨aside, slots, scans, sqs, due⟩ :=
    raiseDegraded_frame c (s.convs.look c).degraded degraded value v
  obtain ⟨u, hu⟩ : ∃ u, u = raiseDegraded c (s.convs.look c).degraded degraded value v := ⟨_, rfl⟩
  rw [← hu] at hf aside slots scans sqs due
  have held : v.slots.look i = some x := by simp [hv, State.requestEnded, releaseFrontEnd]
  have hi : u.slots.look i = some x := by rw [slots, held]
  have device : u.device = s.device := (aside_device aside).trans (by rw [hv]; rfl)
  have w := work.of_slot device hi (by rw [hx]; decide) (by rw [hx]; decide)
  have asideT : (settle u).aside = v.aside := (settle_aside_work w).trans aside
  refine ⟨_, act_to work.1 hf, ⟨?_, ?_, ?_, ?_, ?_, fun y hy => ?_, fun term ht => ?_, ?_, ?_, ?_, ?_,
    ?_, ?_⟩, fun same => ?_, fun changed active => ?_⟩
  · exact settle_slotsStand w i x (by simp) hi (by rw [hx]; decide)
  · rw [aside_convs asideT, hv]; simp [State.requestEnded, releaseFrontEnd]
  · rw [aside_convClaims asideT, hv]; simp [State.requestEnded, releaseFrontEnd]
  · rw [aside_conns asideT, hv]; simp [State.requestEnded, releaseFrontEnd]
  · exact settle_examDue w (by rw [due, hv]; rfl)
  · subst hy
    rw [aside_sourceClaims asideT, aside_sources asideT, hv]
    simp [State.requestEnded, releaseFrontEnd]
  · rw [aside_termClaims asideT, hv]
    exact dropClaims_without i terms s.termClaims term ht
  · rw [aside_control asideT, hv]; rfl
  · rw [aside_store asideT, hv]; rfl
  · rw [aside_templates asideT, hv]; rfl
  · refine slotsStand_via (fun j hj => ?_) (settle_slotsStand w)
    rw [slots, hv]
    simp [State.requestEnded, releaseFrontEnd, List.mem_singleton.not.1 hj]
  · exact scansStand_via (fun k _ => by rw [scans, hv]; rfl) (settle_scansStand w)
  · exact sqsStand_via (fun q _ => by rw [sqs, hv]; rfl) (settle_sqsStand w)
  · refine cqsGrow_via (fun b _ => ?_) (settle_cqsGrow w)
    rw [hu, raiseDegraded_same same, hv]; rfl
  · have cqs : v.cqs = s.cqs := by rw [hv]; rfl
    refine raised_of_grow ?_ (settle_cqsGrow w)
    rw [hu, raiseDegraded_changed changed, raiseEvent_cqs _ _ _ (by rw [cqs]; exact active), cqs]

/-- The run-down that ends the conversions of a request. -/
theorem endsConversions {s : State} {c : Conv} {n : Nat} {i : Fin 16} {r : SlotRec} {q : Request}
    {g : Grant} {ovr : Bool} {cmd : Instr} {o : Corrected} {degraded : Bool} (work : s.atWork)
    (runDown : (s.convs.look c).state = .runDown) (serves : (s.convs.look c).serving = .slot i)
    (hr : s.slots.look i = some r) (hq : r.request = some q) (hg : r.grant = some g)
    (counts : ovr = false → cmd = .runDownEnd c n ∧ n < q.apertureV.limit
      ∧ r.samplesDone + 1 = q.samples.toNat)
    (limit : ovr = true → cmd = .runDownOverrange c ∧ n = q.apertureV.limit)
    (final : q.range.toNat ≠ 4 ∨ r.samplesDone ≠ 0 ∨ r.steps = 3
      ∨ ovr = false ∧ (q.apertureV.counts ≤ 12 * n ∨ (s.convs.look c).currentRange = .g3)
      ∨ ovr = true ∧ (s.convs.look c).currentRange = .g0)
    (ho : o = correctedOf s c (r.sampled (s.convs.look c) ovr n) q)
    (hd : degraded = s.degradedBy c q o) :
    ∃ t, exec cmd s = .next t
      ∧ conversionsEnded c i g.source r.terms
        ((r.sampled (s.convs.look c) ovr n).corrected q o degraded) n degraded s t
      ∧ ((s.convs.look c).degraded = degraded → cqsGrow [] s t)
      ∧ ((s.convs.look c).degraded ≠ degraded → (s.cqs.look 0).state = .active →
          cqsGrow [0] s t
            ∧ raised (if degraded then .converterDegraded else .converterRestored) (convObject c)
              o.value s t) := by
  have aperture := servedAperture_eq serves hr hq
  have sample := (endConversion_samples (ovr := ovr) serves hr hq final).trans
    (takeSample_last (ovr := ovr) (by cases ovr; exacts [.inr (counts rfl).2.2, .inl rfl]) hg ho hd)
  cases ovr with
  | false =>
    obtain ⟨rfl, few, -⟩ := counts rfl
    exact act_ends (f := runDownEnd c n) work rfl
      ((runDownEnd_counts runDown (by rw [aperture]; exact few)).trans sample)
  | true =>
    obtain ⟨rfl, rfl⟩ := limit rfl
    refine act_ends (f := runDownOverrange c) work rfl ((runDownOverrange_eq runDown).trans ?_)
    rw [aperture]
    exact sample

/-- The outcome of a voltage, SUPPLY or resistance request, its snapshot read at the end. -/
theorem correctedOf_eq {s : State} {c : Conv} {x : SlotRec} {q : Request} {g : Grant}
    (hg : x.grant = some g) (hm : q.modeV ≠ .ref) : correctedOf s c x q =
      correctionOutcome q.modeV q.raw q.apertureV
        (if q.modeV = .supply then .g0 else x.currentRange) x.samplesDone x.sum x.overrangeSeen
        (s.shadows.look (voltageEntry c (if q.modeV = .supply then .g0 else x.currentRange)))
        (s.shadows.look (refEntry c))
        (match g.source with
          | some y => s.shadows.look (currentEntry y q.levelV)
          | none => Shadow.reset) := by
  have range : (if q.modeV.isInternal = true then Range.g0 else x.currentRange)
      = if q.modeV = .supply then .g0 else x.currentRange := by
    cases h : q.modeV with
    | ref => exact absurd h hm
    | _ => simp [Mode.isInternal]
  obtain ⟨conv, source⟩ := g
  unfold correctedOf
  rw [hg]
  dsimp only
  rw [range]
  cases source <;> rfl

theorem mem_terms {r : SlotRec} {ns : NeedSet} {term : Fin 16} {kind : ClaimKind}
    (hn : r.needSet = some ns) (h : (term, kind) ∈ ns.terms) : term ∈ r.terms.map Prod.fst := by
  simp only [SlotRec.terms, hn]
  exact List.mem_map_of_mem h

/-- Settles O30. -/
theorem conversionsEnd : Obligations.ConversionsEnd := by
  unfold Obligations.ConversionsEnd
  intro c n i r q g s work runDown serves hr converting hq hg conv mode
  refine ⟨fun late => ?_, fun ovr cmd counts limit => ?_⟩
  · exact act_congr (f := runDownEnd c n) (g := runDownOverrange c)
      (runDownEnd_late runDown (by rw [servedAperture_eq serves hr hq]; exact late))
  · have final : q.range.toNat ≠ 4 ∨ r.samplesDone ≠ 0 ∨ r.steps = 3
        ∨ ovr = false ∧ (q.apertureV.counts ≤ 12 * n ∨ (s.convs.look c).currentRange = .g3)
        ∨ ovr = true ∧ (s.convs.look c).currentRange = .g0 := by
      cases ovr with
      | false =>
        obtain ⟨-, -, -, h⟩ := counts rfl
        exact h.imp_right (Or.imp_right (Or.imp_right fun e => .inl ⟨rfl, e⟩))
      | true =>
        obtain ⟨-, -, h⟩ := limit rfl
        exact h.imp_right (Or.imp_right (Or.imp_right fun e => .inr ⟨rfl, e⟩))
    have same : s.degradedBy c q (correctedOf s c (r.sampled (s.convs.look c) ovr n) q)
        = (s.convs.look c).degraded := if_neg mode
    obtain ⟨t, ht, ⟨slot, convs, claims, conns, due, sources, terms, control, store, templates, slots,
      scans, sqs⟩, grow, -⟩ := endsConversions (ovr := ovr) (cmd := cmd) (n := n) work runDown serves
        hr hq hg (fun h => ⟨(counts h).1, (counts h).2.1, (counts h).2.2.1⟩)
        (fun h => ⟨(limit h).1, (limit h).2.1⟩) final rfl rfl
    rw [same] at slot convs grow
    refine ⟨t, _, _, ht, slot, rfl, correctedOf_eq hg mode, rfl, convs, claims, conns, due, sources,
      fun ns term kind hn h => terms term (mem_terms hn h), control, store, templates, slots, scans,
      sqs, grow rfl⟩

/-! ### REF results (R96, R98) -/

theorem roundDiv_one (x : Int) : roundDiv x 1 = x := by
  unfold roundDiv
  dsimp only
  split <;> omega

/-- The outcome of a REF uses the G0 entry and no current entry. -/
theorem correctedOf_ref {s : State} {c : Conv} {x : SlotRec} {q : Request} (hm : q.modeV = .ref) :
    ∃ cur, correctedOf s c x q = correctionOutcome .ref q.raw q.apertureV .g0 x.samplesDone x.sum
      x.overrangeSeen (s.shadows.look (voltageEntry c .g0)) (s.shadows.look (refEntry c)) cur := by
  unfold correctedOf
  rw [hm]
  exact ⟨_, rfl⟩

theorem correctionOutcome_seen {m : Mode} {raw : Bool} {a : Aperture} {g : Range} {samples : Nat}
    {sum : Int} {sg : Sign} {volt ref cur : Shadow} :
    correctionOutcome m raw a g samples sum (some sg) volt ref cur = sampleOverrange sg := rfl

theorem correctionOutcome_raw {m : Mode} {a : Aperture} {g : Range} {samples : Nat}
    {sum : Int} {volt ref cur : Shadow} :
    correctionOutcome m true a g samples sum none volt ref cur
      = countOutcome .success (averageCount sum samples) := rfl

theorem correctionOutcome_invalid {m : Mode} {a : Aperture} {g : Range} {samples : Nat}
    {sum : Int} {volt ref cur : Shadow} (h : neededInvalid m volt ref cur = true) :
    correctionOutcome m false a g samples sum none volt ref cur
      = countOutcome .calInvalid (averageCount sum samples) := by
  simp [correctionOutcome, h]

theorem neededInvalid_ref {volt ref cur : Shadow} :
    neededInvalid .ref volt ref cur = (!volt.valid || !ref.valid) := by
  simp [neededInvalid, Mode.isResistance]

/-- Settles O31. -/
theorem refResultSetsDegraded : Obligations.RefResultSetsDegraded := by
  unfold Obligations.RefResultSetsDegraded
  refine (and_iff_right_of_imp fun general => ?_).2 ?_
  · intro c n i r q g v s work active runDown serves hr converting hq hg conv mode range raw samples
      done sum seen few validVolt validRef hv inside hin
    obtain ⟨t, x, res, ht, slot, hx, convs, -, -, -, -, -, -, counted, same, changed, store, slots, scans,
      -⟩ := general c n false (.runDownEnd c n) i r q g _ _ _ _ s work active runDown serves hr
        converting hq hg conv mode range (fun _ => ⟨rfl, few, by rw [done, samples]; rfl, seen⟩) nofun
        rfl rfl rfl rfl
    obtain ⟨-, -, -, -, calibrated⟩ := counted rfl
    obtain ⟨value, generation, -, success, failure⟩ := calibrated raw validVolt validRef
    have average : roundDiv (r.sum + signedCount (s.convs.look c).polarity n) (r.samplesDone + 1)
        = signedCount (s.convs.look c).polarity n := by
      rw [sum, done, Int.zero_add]
      exact roundDiv_one _
    rw [average] at value success failure
    have hv' : v = roundDiv ((q.apertureV.lsbPerCount * signedCount (s.convs.look c).polarity n
        - (s.shadows.look (voltageEntry c .g0)).wordA.toInt)
          * (s.shadows.look (voltageEntry c .g0)).wordB.toNat) 1073741824 := hv
    rw [← hv'] at value success failure
    rw [← hin] at success failure
    have outcome : res.status = (if inside then .success else .refOutOfTolerance)
        ∧ res.flags.degraded = !inside := by
      cases inside with
      | true => exact success rfl
      | false => exact failure nofun
    obtain ⟨status, degraded⟩ := outcome
    rw [degraded] at convs same changed
    refine ⟨t, x, res, ht, slot, by rw [hx], by rw [hx], value, status, generation, degraded,
      by rw [convs], same, fun was => ?_, store, slots, scans⟩
    rw [value] at changed
    cases inside <;> exact changed (by rw [was]; decide)
  · intro c n ovr cmd i r q g e ref average v s work active runDown serves hr converting hq hg conv mode
      range counts limit he href haverage hv
    have hm : q.modeV = .ref := by simp [Request.modeV, modeOf, mode]
    have fixed : q.isAuto = false := by simp [Request.isAuto, range]
    obtain ⟨cur, outcome⟩ :=
      correctedOf_ref (s := s) (c := c) (x := r.sampled (s.convs.look c) ovr n) hm
    obtain ⟨o, ho⟩ : ∃ o, o = correctedOf s c (r.sampled (s.convs.look c) ovr n) q := ⟨_, rfl⟩
    rw [← ho, ← he, ← href] at outcome
    have after : s.degradedBy c q o = degradedAfter (s.convs.look c).degraded q.raw o.status := if_pos hm
    obtain ⟨t, ht, ⟨slot, convs, claims, conns, -, -, -, -, store, -, slots, scans, sqs⟩, same, changed⟩ :=
      endsConversions (ovr := ovr) (cmd := cmd) (n := n) work runDown serves hr hq hg
        (fun h => ⟨(counts h).1, (counts h).2.1, (counts h).2.2.1⟩) limit
        (.inl (by rw [range]; decide)) ho rfl
    rw [after] at slot convs same changed
    refine ⟨t, _, o.result (stampFlags q.raw q.isAuto
      (degradedAfter (s.convs.look c).degraded q.raw o.status) o), ht, slot, rfl, convs, claims, conns,
      ?_, fixed, rfl, fun h => ?_, fun h => ?_, same, fun h => ?_, store, slots, scans, sqs⟩
    · show o.aux = 0
      rw [outcome]
      unfold correctionOutcome
      dsimp only
      repeat' split
      all_goals rfl
    · subst h
      rw [show o = sampleOverrange (s.convs.look c).polarity from outcome]
      cases (s.convs.look c).polarity <;> cases q.raw <;> simp [Corrected.result, stampFlags,
        sampleOverrange, degradedAfter, overrangeValue]
    · subst h
      have seen : (r.sampled (s.convs.look c) false n).overrangeSeen = none := (counts rfl).2.2.2
      have avg : averageCount (r.sampled (s.convs.look c) false n).sum
          (r.sampled (s.convs.look c) false n).samplesDone = average := haverage.symm
      rw [seen] at outcome
      refine ⟨?_, ?_, fun raw => ?_, fun raw invalid => ?_, fun raw h1 h2 => ?_⟩
      · rw [outcome]
        cases q.raw
        · cases hi : neededInvalid .ref e ref cur
          · rw [correctionOutcome_calibrated hi, calibratedOutcome_ref rfl]; rfl
          · rw [correctionOutcome_invalid hi]; rfl
        · rfl
      · rw [outcome]
        cases q.raw
        · cases hi : neededInvalid .ref e ref cur
          · rw [correctionOutcome_calibrated hi, calibratedOutcome_ref rfl]; rfl
          · rw [correctionOutcome_invalid hi]; rfl
        · rfl
      · rw [raw, correctionOutcome_raw, avg] at outcome
        rw [outcome, raw]
        exact ⟨rfl, rfl, rfl, rfl, rfl⟩
      · have hi : neededInvalid .ref e ref cur = true := by
          rw [neededInvalid_ref]
          rcases invalid with h | h <;> simp [h]
        rw [raw, correctionOutcome_invalid hi, avg] at outcome
        rw [outcome, raw]
        exact ⟨rfl, rfl, rfl, rfl, rfl⟩
      · have hi : neededInvalid .ref e ref cur = false := by simp [neededInvalid_ref, h1, h2]
        rw [raw, correctionOutcome_calibrated hi, avg,
          calibratedOutcome_ref (u := uncorrected q.apertureV average) (v := v) hv.symm] at outcome
        rw [outcome, raw]
        refine ⟨rfl, rfl, ?_, fun inside => ?_, fun outside => ?_⟩
        · cases refInside v ref.wordA.toInt <;> rfl
        · rw [refInside_iff.2 inside]
          exact ⟨rfl, rfl⟩
        · rw [Bool.eq_false_iff.2 (refInside_iff.not.2 outside)]
          exact ⟨rfl, rfl⟩
    · have event := changed h active
      cases c <;> exact event

end Sys2Proof.Machine
end

section
/-! The ends of the phases of a conversion, and the start-up checks (sections 5.3 to 5.9 and 11.3). -/

namespace Sys2Proof.Machine

-- Parallel elaboration of the one text reserves more memory than the check allows.
set_option Elab.async false

/-! ### Phase ends, as effects -/

theorem autozeroEnd_eq {s : State} {c : Conv} (h : (s.convs.look c).state = .autozero) (offset : Int) :
    autozeroEnd c offset s = s.setConv c { s.convs.look c with
      state := .runUp, phaseTimer := none, counter := 0, heldOffset := offset } := by
  simp [autozeroEnd, h]

theorem runUpEnd_eq {s : State} {c : Conv} (h : (s.convs.look c).state = .runUp) (positive : Bool) :
    runUpEnd c { positive := positive, zero := false } s = s.setConv c { s.convs.look c with
      state := .runDown, polarity := if positive then .pos else .neg, counter := 0 } := by
  simp [runUpEnd, h]

theorem Aperture.limit_pos (a : Aperture) : 0 < a.limit := by cases a <;> decide

/-- An integrator at zero ends its run-down with c = 0 (R80). -/
theorem runUpEnd_zero {s : State} {c : Conv} (h : (s.convs.look c).state = .runUp) (positive : Bool) :
    runUpEnd c { positive := positive, zero := true } s = runDownEnd c 0 (s.setConv c
      { s.convs.look c with
        state := .runDown, polarity := if positive then .pos else .neg, counter := 0 }) := by
  rw [runDownEnd_counts (by simp [State.setConv]) (Aperture.limit_pos _)]
  simp [runUpEnd, h]

theorem rangingEnd_eq {s : State} {c : Conv} (h : (s.convs.look c).state = .ranging) :
    rangingEnd c s = s.setConv c ((s.convs.look c).beginConversion (servedNoAutozero s c)) := by
  simp [rangingEnd, h]

theorem recoveryEnd_eq {s : State} {c : Conv} (h : (s.convs.look c).state = .recovery) :
    recoveryEnd c s = { s with
      convs := s.convs.put c { s.convs.look c with state := .idle, phaseTimer := none }
      convClaims := s.convClaims.put c .free
      examDue := true } := by
  simp [recoveryEnd, h, State.setConv]

/-! ### The end of a start-up check (R99) -/

/-- The state in which the check of converter `c` has ended. -/
def State.checkEnded (s : State) (c : Conv) (n : Nat) (degraded : Bool) : State :=
  { s with
    convs := s.convs.put c { s.convs.look c with
      state := .idle, serving := .nothing, phaseTimer := none, counter := n, degraded := degraded }
    conns := s.conns.put c ConnSet.rest
    checks := s.checks.put c .ended }

/-- DEGRADED after a start-up check (R98, R99). -/
theorem degradedAfter_check {before : Bool} {p : Sign} {n : Nat} {ovr degraded : Bool}
    {e r cur : Shadow} {v : Int}
    (hv : v = roundDiv ((1000 * signedCount p n - e.wordA.toInt) * e.wordB.toNat) 1073741824)
    (hd : degraded = true ↔ ovr = true
      ∨ (e.valid = true ∧ r.valid = true ∧ ¬ (v - r.wordA.toInt).natAbs * 2000 ≤ r.wordA.toInt.natAbs)
      ∨ (¬ (e.valid = true ∧ r.valid = true) ∧ before = true)) :
    degradedAfter before false (correctionOutcome .ref false .ap2 .g0 1 (signedCount p n)
      (if ovr then some p else none) e r cur).status = degraded := by
  rw [Bool.eq_iff_iff, hd]
  cases ovr with
  | true => simp [correctionOutcome, sampleOverrange, degradedAfter]
  | false =>
    simp only [Bool.false_eq_true, if_false, false_or]
    by_cases valid : e.valid = true ∧ r.valid = true
    · have needed : neededInvalid .ref e r cur = false := by
        simp [neededInvalid_ref, valid.1, valid.2]
      have reading : calibratedVoltage (uncorrected .ap2 (averageCount (signedCount p n) 1)) e = v := by
        rw [hv, averageCount, roundDiv_one]; rfl
      rw [correctionOutcome_calibrated needed, calibratedOutcome_ref reading, ← refInside_iff]
      cases refInside v r.wordA.toInt <;> simp [degradedAfter, valid.1, valid.2]
    · have needed : neededInvalid .ref e r cur = true := by
        rw [neededInvalid_ref]
        cases he : e.valid <;> cases hr : r.valid <;> simp [he, hr] at valid ⊢
      rw [correctionOutcome_invalid needed]
      simp only [degradedAfter, countOutcome]
      tauto

theorem endConversion_startUp {s : State} {c : Conv} (serves : (s.convs.look c).serving = .startUp)
    {ovr degraded : Bool} {n : Nat}
    (hd : degradedAfter (s.convs.look c).degraded false (correctionOutcome .ref false .ap2 .g0 1
      (signedCount (s.convs.look c).polarity n) (if ovr then some (s.convs.look c).polarity else none)
      (s.shadows.look (voltageEntry c .g0)) (s.shadows.look (refEntry c)) Shadow.reset).status
        = degraded) :
    endConversion c ovr n s = s.checkEnded c n degraded := by
  subst hd
  simp [endConversion, State.setConv, serves, endCheck, State.checkEnded, ByConv.put_put]

/-- Both checks have ended once the other had ended before. -/
theorem checks_both {checks : ByConv Check} {c d : Conv} (h : d ≠ c) (hd : checks.look d = .ended) :
    checks.put c .ended = { ca := .ended, cb := .ended } := by
  obtain ⟨a, b⟩ := checks
  cases c <;> cases d <;> first | exact absurd rfl h | (cases hd; rfl)

/-- The steps of STARTING after a check has ended. -/
theorem settle_checkEnded {s : State} {c d : Conv} (n : Nat) (degraded : Bool)
    (starting : s.device = .starting) (empty : s.empty) (h : d ≠ c) {t : State}
    (ht : t = settle (s.checkEnded c n degraded)) :
    (t.convs.look c = { s.convs.look c with
          state := .idle, serving := .nothing, phaseTimer := none, counter := n, degraded := degraded }
        ∧ t.conns.look c = ConnSet.rest ∧ t.store = s.store ∧ t.slots = s.slots
        ∧ t.convClaims = s.convClaims)
      ∧ (s.checks.look d ≠ .ended → t.device = .starting ∧ t.checks.look c = .ended ∧ t.cqs = s.cqs)
      ∧ (s.checks.look d = .ended → t.device = if s.enable then .ready else .off) := by
  obtain ⟨u, hu⟩ : ∃ u, u = s.checkEnded c n degraded := ⟨_, rfl⟩
  rw [← hu] at ht
  have device : u.device = .starting := by rw [hu]; exact starting
  have emptyU : u.empty := by rw [hu]; exact empty.of_eq rfl rfl rfl rfl rfl
  have ended : u.checks.look c = .ended := by simp [hu, State.checkEnded]
  have other : u.checks.look d = s.checks.look d := by simp [hu, State.checkEnded, h]
  have convs : u.convs.look c = { s.convs.look c with
      state := .idle, serving := .nothing, phaseTimer := none, counter := n, degraded := degraded } := by
    simp [hu, State.checkEnded]
  have conns : u.conns.look c = ConnSet.rest := by simp [hu, State.checkEnded]
  by_cases last : s.checks.look d = .ended
  · have both : u.checks = { ca := .ended, cb := .ended } := by
      rw [hu]; exact checks_both h last
    have stays : checkStage u = u := by
      have waits : ∀ b, startCheck b u = u := fun b =>
        startCheck_waits (.inl (by rw [both]; cases b <;> nofun))
      rw [checkStage, waits, waits]
    have ends : t = if u.enable then enterReady u
        else { u with device := .off, checks := { ca := .notDue, cb := .notDue } } := by
      rw [ht, settle_starting device emptyU, stays, startUpStage, if_pos ⟨device, both⟩]
    have enable : u.enable = s.enable := by rw [hu]; rfl
    rw [enable] at ends
    have kept : t.convs = u.convs ∧ t.conns = u.conns ∧ t.store = u.store ∧ t.slots = u.slots
        ∧ t.convClaims = u.convClaims := by
      rw [ends]
      split <;> exact ⟨rfl, rfl, rfl, rfl, rfl⟩
    obtain ⟨k1, k2, k3, k4, k5⟩ := kept
    refine ⟨⟨by rw [k1, convs], by rw [k2, conns], by rw [k3, hu]; rfl, by rw [k4, hu]; rfl,
      by rw [k5, hu]; rfl⟩, fun e => absurd last e, fun _ => ?_⟩
    rw [ends]
    split <;> rfl
  · have stays : startCheck c u = u := startCheck_waits (.inl (by rw [ended]; nofun))
    obtain ⟨h1, h2, h3⟩ := checkStage_look u c
    rw [stays] at h1 h2 h3
    have frame := checkStage_eq u
    rw [ht, settle_checks (c := d) device emptyU (by rw [other]; exact last)]
    refine ⟨⟨by rw [h2, convs], by rw [h3, conns], ?_, ?_, ?_⟩, fun _ => ⟨?_, h1.trans ended, ?_⟩,
      fun e => absurd e last⟩
    all_goals rw [frame]
    · rw [hu]; rfl
    · rw [hu]; rfl
    · rw [hu]; rfl
    · exact device
    · rw [hu]; rfl

/-- The other converter. -/
def otherConv : Conv → Conv
  | .ca => .cb
  | .cb => .ca

theorem eq_otherConv {c d : Conv} (h : d ≠ c) : d = otherConv c := by
  cases c <;> cases d <;> first | rfl | exact absurd rfl h

theorem otherConv_ne (c : Conv) : otherConv c ≠ c := by cases c <;> nofun

/-- Settles O27. -/
theorem phasesOfAConversion : Obligations.PhasesOfAConversion := by
  unfold Obligations.PhasesOfAConversion
  intro c offset positive s reset
  refine ⟨fun work => ⟨fun h => ?_, fun h => ?_, fun i r q h serves hr hq => ?_, fun h => ?_⟩, fun h => ?_,
    fun starting law serves => ⟨fun h => ?_, fun h => ?_, ?_⟩, fun law h => ⟨fun rest => ?_, ?_⟩⟩
  · obtain ⟨t, ht, -, stands⟩ := act_turns (f := autozeroEnd c offset) work (autozeroEnd_eq h offset) rfl
    exact ⟨t, ht, stands⟩
  · obtain ⟨t, ht, -, stands⟩ :=
      act_turns (f := runUpEnd c { positive := positive, zero := false }) work (runUpEnd_eq h positive) rfl
    exact ⟨t, ht, stands⟩
  · have eq := rangingEnd_eq h
    rw [servedNoAutozero_eq serves hr hq] at eq
    obtain ⟨t, ht, -, stands⟩ := act_turns (f := rangingEnd c) work eq rfl
    exact ⟨t, ht, stands⟩
  · obtain ⟨t, ht, due, stands⟩ := act_turns (f := recoveryEnd c) work (recoveryEnd_eq h) rfl
    exact ⟨t, ht, due rfl, stands⟩
  · exact ⟨_, act_to (f := runUpEnd c { positive := positive, zero := true }) reset (runUpEnd_zero h positive),
      act_to (f := runDownEnd c 0) reset rfl⟩
  · exact act_check (f := autozeroEnd c offset) reset starting law serves (autozeroEnd_eq h offset)
  · exact act_check (f := runUpEnd c { positive := positive, zero := false }) reset starting law serves
      (runUpEnd_eq h positive)
  · intro n ovr degraded cmd e r v runDown counts limit he hr hv hd
    have empty : s.empty := law.empty (Device.rests (.inr (.inr starting)))
    have aperture : servedAperture s c = .ap2 := by simp [servedAperture, serves]
    subst he hr
    have hv' : v = roundDiv ((1000 * signedCount (s.convs.look c).polarity n
        - (s.shadows.look (voltageEntry c .g0)).wordA.toInt)
          * (s.shadows.look (voltageEntry c .g0)).wordB.toNat) 1073741824 := by
      rw [hv]
      cases (s.convs.look c).polarity <;> rfl
    have ends : ∃ f : State → State, exec cmd s = act f s ∧ f s = s.checkEnded c n degraded := by
      have eq := endConversion_startUp serves (ovr := ovr) (degradedAfter_check hv' hd)
      cases ovr with
      | false =>
        obtain ⟨rfl, few⟩ := counts rfl
        refine ⟨runDownEnd c n, rfl, ?_⟩
        rw [runDownEnd_counts runDown (by rw [aperture]; exact few), eq]
      | true =>
        obtain ⟨rfl, rfl⟩ := limit rfl
        refine ⟨runDownOverrange c, rfl, ?_⟩
        rw [runDownOverrange_eq runDown, aperture]
        exact eq
    obtain ⟨f, hcmd, hf⟩ := ends
    refine ⟨_, hcmd.trans (act_to reset hf), ?_⟩
    have steps := settle_checkEnded n degraded starting empty (otherConv_ne c) rfl
    obtain ⟨⟨convs, conns, store, slots, claims⟩, waits, last⟩ := steps
    refine ⟨convs, conns, store, slots, claims, fun d hd => ?_⟩
    rw [eq_otherConv hd]
    exact ⟨waits, last⟩
  · have empty : s.empty := law.empty (Device.rests (rest.imp_right .inl))
    refine (act_off (f := recoveryEnd c) reset ?_ ?_).trans (congrArg _ (recoveryEnd_eq h))
    · rw [recoveryEnd_eq h]; exact rest
    · rw [recoveryEnd_eq h]; exact empty.of_eq rfl rfl rfl rfl rfl
  · intro starting pending
    have empty : s.empty := law.empty (Device.rests (.inr (.inr starting)))
    obtain ⟨u, hu⟩ : ∃ u : State, u = { s with
        convs := s.convs.put c { s.convs.look c with state := .idle, phaseTimer := none }
        convClaims := s.convClaims.put c .free
        examDue := true } := ⟨_, rfl⟩
    have device : u.device = .starting := by rw [hu]; exact starting
    have checks : u.checks = s.checks := by rw [hu]
    have convs : u.convs.look c = { s.convs.look c with state := .idle, phaseTimer := none } := by
      simp [hu]
    have conns : u.conns = s.conns := by rw [hu]
    have steps : settle u = checkStage u := settle_checks (c := c) device
      (by rw [hu]; exact empty.of_eq rfl rfl rfl rfl rfl)
      (by rw [checks]; rcases pending with h | h <;> rw [h] <;> nofun)
    refine ⟨_, act_to (f := recoveryEnd c) reset ((recoveryEnd_eq h).trans hu.symm), ?_⟩
    rw [steps]
    have frame := checkStage_eq u
    obtain ⟨h1, h2, h3⟩ := checkStage_look u c
    refine ⟨?_, ?_, ?_, ?_, fun waits => ?_, fun due => ?_⟩
    · rw [frame]; exact device
    · rw [frame, hu]
    · rw [frame, hu]; rfl
    · rw [frame, hu]
    · rw [h1, h2, h3, startCheck_waits (.inl (by rw [checks, waits]; nofun)), checks, conns]
      exact ⟨waits, convs, rfl⟩
    · rw [h1, h2, h3, startCheck_begins device (by rw [checks, due]) (by rw [convs])]
      simp [ConvRec.checked, convs]

end Sys2Proof.Machine
end

section
/-! The claim arbiter: need sets, what a grant may choose, and an examination to its end (chapter 3). -/

namespace Sys2Proof.Machine

-- Parallel elaboration of the one text reserves more memory than the check allows.
set_option Elab.async false

/-! ### Need sets and choices (R48, R49, R53, R54) -/

theorem needs_conv (q : Request) : q.needs.conv = (if q.converter.toNat = 1 then .only .ca
    else if q.converter.toNat = 2 then .only .cb else .either) := by
  have choice : q.needs.conv = q.convChoice := by
    unfold Request.needs
    cases q.modeV <;> rfl
  rw [choice]
  unfold Request.convChoice
  generalize q.converter.toNat = n
  rcases n with _ | _ | _ | n <;> simp

theorem namedSource_eq (q : Request) : q.namedSource = (if q.source.toNat = 1 then .only .ex0
    else if q.source.toNat = 2 then .only .ex1 else .either) := by
  unfold Request.namedSource
  generalize q.source.toNat = n
  rcases n with _ | _ | _ | n <;> simp

theorem needs_source (q : Request) :
    q.needs.source = if q.mode.toNat = 2 ∨ q.mode.toNat = 3 then q.namedSource else .noSource := by
  simp only [← Request.modeV_isResistance_iff]
  unfold Request.needs
  cases q.modeV <;> rfl

theorem Request.modeV_of_toNat {q : Request} {m : Mode} (h : modeOf q.mode = some m) : q.modeV = m := by
  simp [Request.modeV, h]

theorem SourceChoice.takes_iff (c : SourceChoice) (x : SourceId) :
    c.takes x = true ↔ c = .either ∨ c = .only x := by
  cases c <;> simp [SourceChoice.takes]

theorem ConvChoice.takes_iff (ch : ConvChoice) (c : Conv) :
    ch.takes c = true ↔ ch = .either ∨ ch = .only c := by
  cases ch <;> simp [ConvChoice.takes]

theorem termFits_drive {claim : TermClaim} {c : Conv} :
    termFits claim .drive c = true ↔ claim = .free := by
  cases claim <;> simp [termFits]

theorem termFits_sense {claim : TermClaim} {c : Conv} :
    termFits claim .sense c = true ↔
      claim = .free ∨ ∃ hs, claim = .sense hs ∧ ∀ j d, (j, d) ∈ hs → d ≠ c := by
  cases claim <;> simp [termFits]

theorem terms_fit {s : State} {ns : NeedSet} {c : Conv} :
    (∀ x ∈ ns.terms, termFits (s.termClaims.look x.1) x.2 c = true) ↔
      (∀ term, (term, ClaimKind.drive) ∈ ns.terms → s.termClaims.look term = .free)
        ∧ ∀ term, (term, ClaimKind.sense) ∈ ns.terms → s.termClaims.look term = .free
          ∨ ∃ hs, s.termClaims.look term = .sense hs ∧ ∀ j d, (j, d) ∈ hs → d ≠ c := by
  constructor
  · exact fun h => ⟨fun term ht => termFits_drive.1 (h _ ht), fun term ht => termFits_sense.1 (h _ ht)⟩
  · rintro ⟨drive, sense⟩ ⟨term, kind⟩ ht
    cases kind with
    | drive => exact termFits_drive.2 (drive term ht)
    | sense => exact termFits_sense.2 (sense term ht)

theorem canMeet_iff {s : State} {reserved : List NeedSet} {ns : NeedSet} {c : Conv} :
    canMeet s reserved ns c = true ↔
      (ns.conv = .either ∨ ns.conv = .only c) ∧ s.convClaims.look c = .free
        ∧ (∀ term, (term, ClaimKind.drive) ∈ ns.terms → s.termClaims.look term = .free)
        ∧ (∀ term, (term, ClaimKind.sense) ∈ ns.terms → s.termClaims.look term = .free
            ∨ ∃ hs, s.termClaims.look term = .sense hs ∧ ∀ j d, (j, d) ∈ hs → d ≠ c)
        ∧ (ns.source = .noSource ∨ ∃ x, x ∈ grantableSources s reserved ns)
        ∧ ∀ b, b ∈ reserved → b.conv ≠ .either ∧ b.conv ≠ .only c
            ∧ ∀ term k l, (term, k) ∈ ns.terms → (term, l) ∉ b.terms := by
  have source : (!(grantableSources s reserved ns).isEmpty) = true ↔
      ∃ x, x ∈ grantableSources s reserved ns := by
    cases grantableSources s reserved ns <;> simp
  have reservations : ((!reserved.any fun b => b.conv.takes c) = true
      ∧ (ns.terms.all fun x => !reserved.any fun b => b.terms.any fun y => y.1 == x.1) = true) ↔
      ∀ b, b ∈ reserved → b.conv ≠ .either ∧ b.conv ≠ .only c
        ∧ ∀ term k l, (term, k) ∈ ns.terms → (term, l) ∉ b.terms := by
    simp only [Bool.not_eq_true', List.any_eq_false, List.all_eq_true, ConvChoice.takes_iff, not_or,
      beq_iff_eq, Bool.not_eq_true]
    constructor
    · rintro ⟨h1, h2⟩ b hb
      exact ⟨(h1 b hb).1, (h1 b hb).2, fun term k l ht hl => h2 _ ht b hb _ hl rfl⟩
    · intro h
      exact ⟨fun b hb => ⟨(h b hb).1, (h b hb).2.1⟩, fun x hx b hb y hy e =>
        (h b hb).2.2 x.1 x.2 y.2 hx (by rw [← e]; exact hy)⟩
  unfold canMeet
  rw [Bool.and_eq_true, Bool.and_eq_true, Bool.and_eq_true, Bool.and_eq_true, Bool.and_eq_true,
    List.all_eq_true, terms_fit, Bool.or_eq_true, source, ConvChoice.takes_iff, beq_iff_eq, beq_iff_eq,
    ← reservations]
  tauto

theorem mem_reservedAgainst {s : State} {i : Fin 16} {m : NeedSet} : m ∈ reservedAgainst s i ↔
    ∃ j y, j ∈ examOrder s ∧ j ≠ i ∧ s.slots.look j = some y ∧ y.blocking = true
      ∧ y.needSet = some m ∧ ¬ ((∃ x, s.slots.look i = some x ∧ x.blocking = true)
        ∧ (examOrder s).idxOf i < (examOrder s).idxOf j) := by
  have blocks : ∀ j, s.slotMeets (fun r => r.blocking) j = true ↔
      ∃ x, s.slots.look j = some x ∧ x.blocking = true := fun j => by
    unfold State.slotMeets
    cases s.slots.look j <;> simp
  have binding : ∀ j, binds s (examOrder s) i j = true ↔ j ≠ i
      ∧ (∃ y, s.slots.look j = some y ∧ y.blocking = true)
      ∧ ¬ ((∃ x, s.slots.look i = some x ∧ x.blocking = true)
        ∧ (examOrder s).idxOf i < (examOrder s).idxOf j) := fun j => by
    rw [binds, Bool.and_eq_true, Bool.and_eq_true, bne_iff_ne, blocks, Bool.not_eq_true',
      ← Bool.not_eq_true, Bool.and_eq_true, blocks, decide_eq_true_eq, and_assoc]
  unfold reservedAgainst
  simp only [List.mem_filterMap, List.mem_filter, binding]
  constructor
  · rintro ⟨j, ⟨hj, hne, ⟨y, hy, hb⟩, order⟩, hm⟩
    rw [hy] at hm
    exact ⟨j, y, hj, hne, hy, hb, hm, order⟩
  · rintro ⟨j, y, hj, hne, hy, hb, hm, order⟩
    exact ⟨j, ⟨hj, hne, ⟨y, hy, hb⟩, order⟩, by rw [hy]; exact hm⟩

theorem grantFor_eq {s : State} {i : Fin 16} {r : SlotRec} {m : NeedSet}
    (hr : s.slots.look i = some r) (hm : r.needSet = some m) : grantFor s i =
      (chooseConv s r.currentRange (canMeet s (reservedAgainst s i) m .ca)
        (canMeet s (reservedAgainst s i) m .cb)).map fun c =>
          { conv := c, source := (grantableSources s (reservedAgainst s i) m).head? } := by
  simp [grantFor, hr, hm]

/-- Of two candidates the one whose range alone fits is chosen, and otherwise CA (R53). -/
theorem chooseConv_of_candidate {s : State} {g : Range} {p : Conv → Bool} {c : Conv} (hc : p c = true)
    (h : ∀ d, d ≠ c → p d = true → (s.convs.look c).currentRange = g ∧ (s.convs.look d).currentRange ≠ g
      ∨ c = .ca ∧ ¬ ((s.convs.look c).currentRange ≠ g ∧ (s.convs.look d).currentRange = g)) :
    chooseConv s g (p .ca) (p .cb) = some c := by
  cases c with
  | ca =>
    cases hb : p .cb with
    | false => simp [chooseConv, hc]
    | true =>
      have := h .cb nofun hb
      have stays : ¬ (s.convs.cb.currentRange = g ∧ s.convs.ca.currentRange ≠ g) := by
        rintro ⟨h1, h2⟩
        rcases this with ⟨h3, -⟩ | ⟨-, h3⟩
        · exact h2 h3
        · exact h3 ⟨h2, h1⟩
      simp [chooseConv, hc, stays]
  | cb =>
    cases ha : p .ca with
    | false => simp [chooseConv, hc]
    | true =>
      rcases h .ca nofun ha with ⟨h1, h2⟩ | ⟨h1, -⟩
      · have h1 : s.convs.cb.currentRange = g := h1
        have h2 : s.convs.ca.currentRange ≠ g := h2
        simp [chooseConv, hc, h1, h2]
      · cases h1

/-- Settles O25. -/
theorem converterAndSourceChoice : Obligations.ConverterAndSourceChoice := by
  unfold Obligations.ConverterAndSourceChoice
  intro s reserved ns start
  refine ⟨fun i g h => ?_, fun i r m hr hm => ⟨fun none => ?_, fun c hc others => ?_⟩,
    fun c => canMeet_iff, fun i m => mem_reservedAgainst, fun q => ⟨needs_conv q, ?_, ?_, ?_, ?_, ?_, ?_⟩,
    fun x => mem_grantableSources, fun x c => c.takes_iff x, fun x y hx hy => ?_, fun h => ?_,
    fun h0 h1 => ?_, fun h => ?_, rfl, rfl, rfl, fun h1 h2 => ?_, fun h => ?_⟩
  · obtain ⟨r, m, hr, hm, meets, source⟩ := grantFor_found h
    refine ⟨r, m, hr, hm, source, fun need none => ?_⟩
    obtain ⟨-, -, -, -, found, -⟩ := canMeet_iff.1 meets
    obtain ⟨x, hx⟩ := found.resolve_left need
    rw [source, List.head?_eq_none_iff] at none
    rw [none] at hx
    cases hx
  · rw [grantFor_eq hr hm, none, none]
    rfl
  · rw [grantFor_eq hr hm,
      chooseConv_of_candidate (p := canMeet s (reservedAgainst s i) m) hc others]
    exact ⟨_, rfl, rfl⟩
  · rw [needs_source, namedSource_eq]
  · intro h
    simp [Request.needs, Request.modeV, modeOf, h]
  · intro h
    simp [Request.needs, Request.modeV, modeOf, h]
  · intro h
    simp [Request.needs, Request.modeV, modeOf, h]
  · intro h
    simp [Request.needs, Request.modeV, modeOf, h]
  · rintro (h | h) <;> simp [Request.needs, Request.modeV, modeOf, h]
  · obtain ⟨takes, -⟩ := mem_grantableSources.1 hy
    rw [hx, SourceChoice.takes_iff] at takes
    rcases takes with h | h
    · cases h
    · cases h; rfl
  · obtain ⟨h1, h2, h3⟩ := mem_grantableSources.1 h
    have h3 : (reserved.any fun b => b.source.takes .ex0) = false :=
      List.any_eq_false.2 fun b hb => by simp [h3 b hb]
    simp [grantableSources, h1, h2, h3]
  · have drop : ∀ {l : List SourceId}, SourceId.ex0 ∉ l → SourceId.ex1 ∈ l →
        l.Sublist [.ex0, .ex1] → l.head? = some .ex1 := by
      intro l n m sub
      cases l with
      | nil => cases m
      | cons x l => cases x <;> simp at n ⊢
    exact drop h0 h1 List.filter_sublist
  · refine List.eq_nil_iff_forall_not_mem.2 fun x hx => ?_
    have := (mem_grantableSources.1 hx).1
    rw [h] at this
    cases this
  · simp [chooseConv, h1, h2]
  · have : ¬ (s.convs.cb.currentRange = start ∧ s.convs.ca.currentRange ≠ start) := by tauto
    simp [chooseConv, this]

end Sys2Proof.Machine
end

section
/-! The calibration store at work: charge, pulse and verify, CAL_WRITE and the buffer commands
(chapters 7 and 10). -/

namespace Sys2Proof.Machine

-- Parallel elaboration of the one text reserves more memory than the check allows.
set_option Elab.async false

/-! ### Effects that leave slots, scans and the submission rings -/

/-- What an effect that leaves slots, submission rings and all scans but those of `l` leaves through the
event. -/
theorem act_rings {f : State → State} {s u : State} (work : s.atWork) (hf : f s = u)
    (hd : u.device = s.device) (hslots : u.slots = s.slots) {l : List (Fin 8)}
    (hscans : ∀ k, k ∉ l → u.scans.look k = s.scans.look k) (hsqs : u.sqs = s.sqs)
    (grow : cqsGrow [] s u) :
    act f s = .next (settle u) ∧ (u.device = .ready ∨ u.device = .halting ∧ u.heldBack)
      ∧ (settle u).aside = u.aside ∧ slotsStand [] s (settle u) ∧ scansStand l s (settle u)
      ∧ sqsStand [] s (settle u) ∧ cqsGrow [] s (settle u) := by
  have w : u.device = .ready ∨ u.device = .halting ∧ u.heldBack := by
    rw [hd]
    exact work.2.imp_right fun ⟨hd, hb⟩ => ⟨hd, heldBack_of_slots hb hslots⟩
  refine ⟨act_to work.1 hf, w, settle_aside_work w,
    slotsStand_via (fun _ _ => by rw [hslots]) (settle_slotsStand w),
    scansStand_via hscans (settle_scansStand w),
    sqsStand_via (fun _ _ => by rw [hsqs]) (settle_sqsStand w),
    cqsGrow_trans grow (settle_cqsGrow w)⟩

/-- The same for an effect that leaves every scan. -/
theorem act_bare {f : State → State} {s u : State} (work : s.atWork) (hf : f s = u)
    (hd : u.device = s.device) (hslots : u.slots = s.slots) (hscans : u.scans = s.scans)
    (hsqs : u.sqs = s.sqs) (grow : cqsGrow [] s u) :
    act f s = .next (settle u) ∧ (u.device = .ready ∨ u.device = .halting ∧ u.heldBack)
      ∧ (settle u).aside = u.aside ∧ slotsStand [] s (settle u) ∧ scansStand [] s (settle u)
      ∧ sqsStand [] s (settle u) ∧ cqsGrow [] s (settle u) :=
  act_rings work hf hd hslots (fun _ _ => by rw [hscans]) hsqs grow

/-- The command in hand stands through an event that leaves the AX, unless it waits for a stop or a
deletion. -/
theorem settle_inHand {u : State} {ctx : AxCtx}
    (w : u.device = .ready ∨ u.device = .halting ∧ u.heldBack) (hax : u.ax = .executing ctx)
    (hs : ∀ j, ctx.work ≠ .stopping j) (hd : ∀ q n, ctx.work ≠ .deleting q n) :
    (settle u).ax = u.ax :=
  settle_ax w (by simp [hax]) (by simpa [State.axWork, hax] using hs)
    (by simpa [State.axWork, hax] using hd)

theorem complete_answered {s : State} {ctx : AxCtx} (hax : s.ax = .executing ctx)
    (hcq : (s.cqs.look 0).state = .active) (status : AdminStatus) (aux : Nat) (value : Int) :
    answered (plainDone ctx.commandId status aux value) s (complete status aux value s) := by
  have h := completeWith_cq0 hax hcq status aux value .empty 0
  refine ⟨?_, ?_, completeWith_isPosting hax ..⟩ <;> simp [complete, h, plainDone]

/-- A command that does nothing but end, at an event that finds it in hand. -/
theorem act_completes {f : State → State} {s v : State} {ctx : AxCtx} {status : AdminStatus} {aux : Nat}
    {value : Int} (work : s.atWork) (hax : s.ax = .executing ctx)
    (hcq : (s.cqs.look 0).state = .active) (hf : f s = complete status aux value v)
    (hd : v.device = s.device) (hslots : v.slots = s.slots) (hscans : v.scans = s.scans)
    (hsqs : v.sqs = s.sqs) (hcqs : v.cqs = s.cqs) (hvax : v.ax = s.ax) :
    ∃ t, act f s = .next t ∧ t.aside = v.aside ∧ slotsStand [] s t ∧ scansStand [] s t
      ∧ sqsStand [] s t ∧ cqsGrow [] s t
      ∧ answered (plainDone ctx.commandId status aux value) s t := by
  have grow : cqsGrow [] s (complete status aux value v) :=
    cqsGrow_trans (cqsGrow_of_eq hcqs) (completeWith_grow status aux value .empty 0 v)
  obtain ⟨ran, w, aside, slots, scans, sqs, cqs⟩ := act_bare work hf
    ((aside_device (complete_aside status aux value v)).trans hd) ((complete_slots ..).trans hslots)
    ((complete_scans ..).trans hscans) ((complete_sqs ..).trans hsqs) grow
  have ans := complete_answered (s := v) (hvax.trans hax) (by rwa [hcqs]) status aux value
  refine ⟨_, ran, aside.trans (complete_aside ..), slots, scans, sqs, cqs, settle_answered w ?_⟩
  simpa only [answered, hcqs] using ans

/-! ### Charge, pulse and verify (R128 to R132) -/

theorem chargeEnd_of {s : State} {w : WriteCtx} (h : s.writeCtx = some w) (hp : w.phase = .charge)
    (guard : Bool) : chargeEnd guard s = samplePulse w guard s := by
  simp [chargeEnd, h, hp]

theorem pulseEnd_of {s : State} {w : WriteCtx} (h : s.writeCtx = some w) (hp : w.phase = .pulse)
    (moved : BitVec 80) : pulseEnd moved s = { s with
      cells := s.cells.put w.entry { s.cells.look w.entry with
        image := (s.cells.look w.entry).image.pulsed w.image moved }
      writeCtx := some { w with pulses := w.pulses + 1, phase := .verify } } := by
  simp [pulseEnd, h, hp]

theorem verifyEnd_of {s : State} {w : WriteCtx} (h : s.writeCtx = some w) (hp : w.phase = .verify)
    (guard : Bool) : verifyEnd guard s =
      if (s.cells.look w.entry).image = w.image then succeedWrite w s
      else if w.budget ≤ w.pulses then failWrite w .verifyFailed w.budget s
      else samplePulse w guard s := by
  simp [verifyEnd, h, hp]

/-- A bit of cells that a pulse may move. -/
theorem pulsedBit_getLsbD {k : Nat} (old target : BitVec k) (moved : BitVec 80) (start n : Nat) :
    ((old &&& ~~~moved.extractLsb' start k) ||| (target &&& moved.extractLsb' start k)).getLsbD n
      = if moved.getLsbD (start + n) = true ∧ n < k then target.getLsbD n else old.getLsbD n := by
  rcases lt_or_ge n k with h | h
  · rcases e : moved.getLsbD (start + n) <;> simp [h, e]
  · simp [h, Nat.not_lt.2 h]

/-- The event of a write in hand that ends: its shadow, and the completion. -/
theorem act_ends_write {f : State → State} {s v : State} {w : WriteCtx} {ctx : AxCtx} {sh : Shadow}
    {status : AdminStatus} {aux : Nat} (work : s.atWork) (hax : s.ax = .executing ctx)
    (hcq : (s.cqs.look 0).state = .active)
    (hv : v = { s with writeCtx := none, shadows := s.shadows.put w.entry sh })
    (hf : f s = complete status aux (s.cells.look w.entry).counter v) :
    ∃ t, act f s = .next t ∧ t.aside = v.aside ∧ t.writeCtx = none
      ∧ t.shadows.look w.entry = sh ∧ (∀ e, e ≠ w.entry → t.shadows.look e = s.shadows.look e)
      ∧ slotsStand [] s t ∧ scansStand [] s t ∧ sqsStand [] s t ∧ cqsGrow [] s t
      ∧ answered (plainDone ctx.commandId status aux (s.cells.look w.entry).counter) s t := by
  obtain ⟨t, ran, aside, slots, scans, sqs, cqs, ans⟩ := act_completes work hax hcq hf
    (by simp [hv]) (by simp [hv]) (by simp [hv]) (by simp [hv]) (by simp [hv]) (by simp [hv])
  have shadows : t.shadows = s.shadows.put w.entry sh := by rw [aside_shadows aside, hv]
  refine ⟨t, ran, aside, by rw [aside_writeCtx aside, hv], ?_, fun e he => ?_, slots, scans, sqs, cqs,
    ans⟩
  · rw [shadows, Table.look_put_same]
  · rw [shadows, Table.look_put_ne _ _ _ _ he]

/-- Settles O39. -/
theorem chargeAndPulse : Obligations.ChargeAndPulse := by
  unfold Obligations.ChargeAndPulse
  intro w moved s work hw
  refine ⟨fun hp => ?_, fun hp => ?_, fun ctx hp hax hc hcq => ?_⟩
  · have hf : chargeEnd true s = { s with writeCtx := some { w with phase := .pulse } } := by
      rw [chargeEnd_of hw hp]; rfl
    obtain ⟨ran, wu, aside, slots, scans, sqs, cqs⟩ :=
      act_bare work hf rfl rfl rfl rfl (cqsGrow_of_eq rfl)
    exact ⟨_, ran, aside, slots, scans, sqs, cqs, fun ctx hax hc =>
      settle_inHand wu hax (by simp [hc]) (by simp [hc])⟩
  · obtain ⟨u, hu⟩ : ∃ u, u = pulseEnd moved s := ⟨_, rfl⟩
    rw [pulseEnd_of hw hp moved] at hu
    obtain ⟨ran, wu, aside, slots, scans, sqs, cqs⟩ :=
      act_bare (f := pulseEnd moved) work ((pulseEnd_of hw hp moved).trans hu.symm) (by rw [hu])
        (by rw [hu]) (by rw [hu]) (by rw [hu]) (cqsGrow_of_eq (by rw [hu]))
    obtain ⟨t, ht⟩ : ∃ t, t = settle u := ⟨_, rfl⟩
    have stays : ∀ ctx, s.ax = .executing ctx → ctx.work = .calWriting → t.ax = s.ax := by
      intro ctx hax hc
      have := settle_inHand wu (ctx := ctx) (by rw [hu]; exact hax) (by simp [hc]) (by simp [hc])
      rw [ht, this, hu]
    rw [← ht] at ran aside slots scans sqs cqs
    rw [hu] at aside
    have cells := aside_cells aside
    have image := congrArg (fun x => Table.look x w.entry) cells
    simp only [Table.look_put_same] at image
    refine ⟨_, ran, ?_, fun e he => ?_, ?_, fun n => ?_, fun n => ?_, fun n => ?_, slots, scans, sqs,
      cqs, stays⟩
    · rw [cells]; exact aside
    · rw [cells, Table.look_put_ne _ _ _ _ he]
    · rw [image]
    · simpa only [image, CalImage.pulsed, Nat.zero_add] using
        pulsedBit_getLsbD (s.cells.look w.entry).image.wordA w.image.wordA moved 0 n
    · rw [image]; exact pulsedBit_getLsbD ..
    · rw [image]; exact pulsedBit_getLsbD ..
  · obtain ⟨v, hv⟩ : ∃ v, v = { s with
        writeCtx := none
        shadows := s.shadows.put w.entry { s.shadows.look w.entry with
          generation := (s.cells.look w.entry).counter, valid := false } } := ⟨_, rfl⟩
    have hf : chargeEnd false s = complete .supplyLow w.pulses (s.cells.look w.entry).counter v := by
      rw [chargeEnd_of hw hp, hv]; rfl
    obtain ⟨t, ran, aside, none, same, other, -, -, -, -, ans⟩ := act_ends_write work hax hcq hv hf
    refine ⟨t, ran, none, ?_, ?_, ?_, other, ans⟩
    · rw [aside_cells aside, hv]
    · rw [same]
    · rw [same]

/-- Settles O40, by the three things that a verify can decide. -/
theorem verifyDecidesTheWrite : Obligations.VerifyDecidesTheWrite := by
  unfold Obligations.VerifyDecidesTheWrite
  intro w ctx guard s work hw hp hax hc hcq
  have failed : ∀ (status : AdminStatus) (aux : Nat),
      verifyEnd guard s = failWrite w status aux s →
      ∃ t, exec (.verifyEnd guard) s = .next t ∧ t.cells = s.cells ∧ t.frontEnd = s.frontEnd
        ∧ t.control = s.control ∧ t.templates = s.templates ∧ t.intPending = s.intPending
        ∧ slotsStand [] s t ∧ scansStand [] s t ∧ sqsStand [] s t ∧ cqsGrow [] s t
        ∧ (∀ e, e ≠ w.entry → t.shadows.look e = s.shadows.look e)
        ∧ t.writeCtx = none ∧ (t.shadows.look w.entry).valid = false
        ∧ (t.shadows.look w.entry).generation = (s.cells.look w.entry).counter
        ∧ answered (plainDone ctx.commandId status aux (s.cells.look w.entry).counter) s t := by
    intro status aux hf
    obtain ⟨v, hv⟩ : ∃ v, v = { s with
        writeCtx := none
        shadows := s.shadows.put w.entry { s.shadows.look w.entry with
          generation := (s.cells.look w.entry).counter, valid := false } } := ⟨_, rfl⟩
    obtain ⟨t, ran, aside, none, same, other, slots, scans, sqs, cqs, ans⟩ :=
      act_ends_write work hax hcq hv (hf.trans (by rw [hv]; rfl))
    exact ⟨t, ran, (aside_cells aside).trans (by rw [hv]), (aside_frontEnd aside).trans (by rw [hv]; rfl),
      (aside_control aside).trans (by rw [hv]; rfl), (aside_templates aside).trans (by rw [hv]),
      (aside_intPending aside).trans (by rw [hv]), slots, scans, sqs, cqs, other, none, by rw [same],
      by rw [same], ans⟩
  by_cases match_ : (s.cells.look w.entry).image = w.image
  · have hf := verifyEnd_of hw hp guard
    rw [if_pos match_] at hf
    obtain ⟨v, hv⟩ : ∃ v, v = { s with
        writeCtx := none
        shadows := s.shadows.put w.entry
          { wordA := w.image.wordA, wordB := w.image.wordB,
            generation := (s.cells.look w.entry).counter, valid := true } } := ⟨_, rfl⟩
    obtain ⟨t, ran, aside, none, same, other, slots, scans, sqs, cqs, ans⟩ :=
      act_ends_write work hax hcq hv (hf.trans (by rw [hv]; rfl))
    exact ⟨t, ran, (aside_cells aside).trans (by rw [hv]), (aside_frontEnd aside).trans (by rw [hv]; rfl),
      (aside_control aside).trans (by rw [hv]; rfl), (aside_templates aside).trans (by rw [hv]),
      (aside_intPending aside).trans (by rw [hv]), slots, scans, sqs, cqs, other,
      fun _ => ⟨none, same, ans⟩, fun h => absurd match_ h, fun h => absurd match_ h,
      fun h => absurd match_ h⟩
  · by_cases spent : w.budget ≤ w.pulses
    · obtain ⟨t, ran, cells, front, control, temps, ints, slots, scans, sqs, cqs, other, ended⟩ :=
        failed .verifyFailed w.budget (by rw [verifyEnd_of hw hp, if_neg match_, if_pos spent])
      exact ⟨t, ran, cells, front, control, temps, ints, slots, scans, sqs, cqs, other,
        fun h => absurd h match_, fun _ _ => ended, fun _ h => absurd spent (Nat.not_le.2 h),
        fun _ h => absurd spent (Nat.not_le.2 h)⟩
    · have hf := verifyEnd_of hw hp guard
      rw [if_neg match_, if_neg spent] at hf
      cases guard with
      | false =>
        obtain ⟨t, ran, cells, front, control, temps, ints, slots, scans, sqs, cqs, other, ended⟩ :=
          failed .supplyLow w.pulses (hf.trans rfl)
        exact ⟨t, ran, cells, front, control, temps, ints, slots, scans, sqs, cqs, other,
          fun h => absurd h match_, fun _ h => absurd h spent, fun _ _ h => absurd h (by decide),
          fun _ _ _ => ended⟩
      | true =>
        obtain ⟨u, hu⟩ : ∃ u, u = { s with writeCtx := some { w with phase := .pulse } } := ⟨_, rfl⟩
        obtain ⟨ran, wu, aside, slots, scans, sqs, cqs⟩ :=
          act_bare work (hf.trans (hu.trans rfl).symm) (by rw [hu]) (by rw [hu]) (by rw [hu])
            (by rw [hu]) (cqsGrow_of_eq (by rw [hu]))
        have ax := settle_inHand wu (ctx := ctx) (by rw [hu]; exact hax) (by simp [hc]) (by simp [hc])
        exact ⟨_, ran, (aside_cells aside).trans (by rw [hu]),
          (aside_frontEnd aside).trans (by rw [hu]; rfl),
          (aside_control aside).trans (by rw [hu]; rfl), (aside_templates aside).trans (by rw [hu]),
          (aside_intPending aside).trans (by rw [hu]), slots, scans, sqs, cqs,
          fun e _ => by rw [aside_shadows aside, hu],
          fun h => absurd h match_, fun _ h => absurd h spent,
          fun _ _ _ => ⟨(aside_writeCtx aside).trans (by rw [hu]),
            (aside_shadows aside).trans (by rw [hu]), ax.trans (by rw [hu])⟩,
          fun _ _ h => absurd h (by decide)⟩

/-! ### A command taken that keeps work in hand -/

/-- What an effect that leaves the slots and of the submission rings moves SQ0's HEAD alone leaves
through the event. -/
theorem settle_taken_rings {index : Nat} {s u : State} (h : s.mayTake index)
    (hd : u.device = s.device) (hslots : u.slots = s.slots)
    (hsqs : u.sqs = s.sqs.put 0 { s.sqs.look 0 with head := nextIndex index (s.sqs.look 0).size })
    (grow : cqsGrow [] s u) :
    (u.device = .ready ∨ u.device = .halting ∧ u.heldBack)
      ∧ (settle u).aside = u.aside ∧ headTaken index s (settle u) ∧ slotsStand [] s (settle u)
      ∧ sqsStand [0] s (settle u) ∧ cqsGrow [] s (settle u) := by
  obtain ⟨work, -, -, hsq, -⟩ := h
  have w : u.device = .ready ∨ u.device = .halting ∧ u.heldBack := by
    rw [hd]
    exact work.2.imp_right fun ⟨hd, hb⟩ => ⟨hd, heldBack_of_slots hb hslots⟩
  refine ⟨w, settle_aside_work w, ?_, slotsStand_via (fun _ _ => by rw [hslots]) (settle_slotsStand w),
    ?_, cqsGrow_trans grow (settle_cqsGrow w)⟩
  · rw [headTaken, settle_sqsStand w 0 (by simp) (by simp [hsqs, hsq]), hsqs, Table.look_put_same]
  · exact sqsStand_via (fun q hq => by rw [hsqs, Table.look_put_ne _ _ _ _ (by simpa using hq)])
      fun q _ => settle_sqsStand w q (by simp)

/-- The same for an effect that leaves the scans too. -/
theorem settle_taken {index : Nat} {s u : State} (h : s.mayTake index) (hd : u.device = s.device)
    (hslots : u.slots = s.slots) (hscans : u.scans = s.scans)
    (hsqs : u.sqs = s.sqs.put 0 { s.sqs.look 0 with head := nextIndex index (s.sqs.look 0).size })
    (grow : cqsGrow [] s u) :
    (u.device = .ready ∨ u.device = .halting ∧ u.heldBack)
      ∧ (settle u).aside = u.aside ∧ headTaken index s (settle u) ∧ slotsStand [] s (settle u)
      ∧ scansStand [] s (settle u) ∧ sqsStand [0] s (settle u) ∧ cqsGrow [] s (settle u) := by
  obtain ⟨w, aside, head, slots, sqs, cqs⟩ := settle_taken_rings h hd hslots hsqs grow
  exact ⟨w, aside, head, slots, scansStand_via (fun _ _ => by rw [hscans]) (settle_scansStand w), sqs,
    cqs⟩

theorem keepWork_of {s : State} {ctx : AxCtx} (h : s.ax = .executing ctx) (work : AxWork) :
    keepWork work s = { s with ax := .executing { ctx with work := work } } := by
  simp [keepWork, h]

theorem act_takes {index : Nat} {s : State} (h : s.mayTake index) (cid : BitVec 16) (cmd : AdminCmd)
    (guard : Bool) : act (takeCommand cid cmd guard) s
      = .next (settle (runCommand cmd guard (commandTaken cid cmd index s))) := by
  rw [act_work h.1.1, takeCommand_of_mayTake cid cmd h]

/-- A command that does nothing but end at its execution. -/
theorem ends_onlyAnswered {index : Nat} {s : State} (h : s.mayTake index) {cid : BitVec 16}
    {cmd : AdminCmd} {guard : Bool} {status : AdminStatus} {aux : Nat} {value : Int}
    (hr : runCommand cmd guard (commandTaken cid cmd index s)
      = complete status aux value (commandTaken cid cmd index s)) :
    onlyAnswered index (plainDone cid status aux value) s
      (settle (runCommand cmd guard (commandTaken cid cmd index s))) := by
  rw [hr]
  exact completeWith_onlyAnswered h ..

/-! ### The CRC and the ranges (R116, R117) -/

/-- The CRC register after one bit of the input. -/
def crcBit (r : BitVec 16) (bit : Bool) : BitVec 16 :=
  if r.getLsbD 15 = bit then r <<< 1 else (r <<< 1) ^^^ 0x1021#16

/-- A byte that stands in the upper half of the register feeds its top bit. -/
theorem crcShift_feed (r : BitVec 16) (x : Byte) :
    crcShift (r ^^^ (x.setWidth 16 <<< 8)) = crcBit r (x.getLsbD 7) ^^^ ((x <<< 1).setWidth 16 <<< 8) := by
  have shifted : (r ^^^ (x.setWidth 16 <<< 8)) <<< 1 = r <<< 1 ^^^ ((x <<< 1).setWidth 16 <<< 8) := by
    ext n hn
    interval_cases n <;> simp
  have top : (r ^^^ (x.setWidth 16 <<< 8)).getLsbD 15 = (r.getLsbD 15 ^^ x.getLsbD 7) := by simp
  rw [crcShift, crcBit, shifted, top]
  rcases r.getLsbD 15 <;> rcases x.getLsbD 7 <;>
    simp [BitVec.xor_assoc, BitVec.xor_comm (0x1021#16)]

/-- The CRC register after a byte is that after its bits, the most significant first. -/
theorem crcByte_bits (r : BitVec 16) (x : Byte) :
    crcByte r x = ([7, 6, 5, 4, 3, 2, 1, 0].map x.getLsbD).foldl crcBit r := by
  simp [crcByte, crcShifts, crcShift_feed, ← BitVec.shiftLeft_add]

theorem crcOf_bits (a b : Word) : crcOf a b =
    ((wordBytes a ++ wordBytes b).flatMap fun x => [7, 6, 5, 4, 3, 2, 1, 0].map x.getLsbD).foldl
      crcBit 0xFFFF#16 := by
  rw [crcOf, List.foldl_flatMap]
  exact congrArg (fun f => List.foldl f _ _) (funext₂ crcByte_bits)

theorem wordAInRange_iff {e : Nat} {a : Word} :
    wordAInRange e a = true ↔ (e ≤ 7 → -1000000 ≤ a.toInt ∧ a.toInt ≤ 1000000)
      ∧ (14 ≤ e → -12500000 ≤ a.toInt ∧ a.toInt ≤ 12500000) := by
  unfold wordAInRange
  split
  · simp_all; omega
  · split
    · simp; omega
    · simp; omega

/-! ### CAL_WRITE (R125, R127) -/

section runCalWrite

variable {entry budget : Byte} {expected : BitVec 16} {a b : Word} {guard : Bool} {s : State} {g : Nat}

theorem runCalWrite_entry (h : 15 < entry.toNat) :
    runCalWrite entry budget expected a b guard s = complete .invalidField 1 0 s := by
  simp [runCalWrite, h]

theorem runCalWrite_budget (he : entry.toNat ≤ 15) (h : 3 < budget.toNat) :
    runCalWrite entry budget expected a b guard s = complete .invalidField 2 0 s := by
  simp [runCalWrite, Nat.not_lt.2 he, h]

theorem runCalWrite_wordA (he : entry.toNat ≤ 15) (hb : budget.toNat ≤ 3)
    (h : wordAInRange entry.toNat a = false) :
    runCalWrite entry budget expected a b guard s = complete .invalidField 3 0 s := by
  simp [runCalWrite, Nat.not_lt.2 he, Nat.not_lt.2 hb, h]

theorem runCalWrite_gain (he : entry.toNat ≤ 7) (hb : budget.toNat ≤ 3)
    (ha : wordAInRange entry.toNat a = true) (h : gainInRange b = false) :
    runCalWrite entry budget expected a b guard s = complete .invalidField 4 0 s := by
  simp [runCalWrite, Nat.not_lt.2 (he.trans (by decide : 7 ≤ 15)), Nat.not_lt.2 hb, ha, he, h]

/-- The checks of the generation, of the wear and of the guard, once the fields pass. -/
theorem runCalWrite_fields (he : entry.toNat ≤ 15) (hb : budget.toNat ≤ 3)
    (ha : wordAInRange entry.toNat a = true) (hg : entry.toNat ≤ 7 → gainInRange b = true)
    (counter : (s.cells.look (sixteenth entry.toNat)).counter = g) :
    runCalWrite entry budget expected a b guard s =
      if expected.toNat ≠ g then complete .staleGeneration g g s
      else if 65535 ≤ g then complete .wearLimit 65535 65535 s
      else if guard = false then complete .supplyLow 0 g s
      else commitWrite (sixteenth entry.toNat) (budgetPulses budget.toNat) a
        (if entry.toNat ≤ 7 then b else 0) s := by
  have gain : ¬ (entry.toNat ≤ 7 ∧ gainInRange b = false) := fun ⟨h7, hn⟩ => by simp [hg h7] at hn
  simp [runCalWrite, Nat.not_lt.2 he, Nat.not_lt.2 hb, ha, gain, counter, wornCount, -not_and]

end runCalWrite

theorem budgetPulses_eq {n : Nat} (h : n ≤ 3) : budgetPulses n = 4 * 2 ^ n := by
  interval_cases n <;> rfl

/-- Settles O41. -/
theorem calWriteCommits : Obligations.CalWriteCommits := by
  unfold Obligations.CalWriteCommits
  refine ⟨fun e a b _ => ⟨wordAInRange_iff, by simp [gainInRange], ?_⟩, ?_⟩
  · exact crcOf_bits a b
  intro cid entry budget expected a b guard index e g s take he hg
  subst he hg
  obtain ⟨v, hv⟩ : ∃ v, v = commandTaken cid (.calWrite entry budget expected a b) index s := ⟨_, rfl⟩
  have cells : v.cells = s.cells := by rw [hv]; rfl
  have ran : exec (.calWrite cid entry budget expected a b guard) s
      = .next (settle (runCalWrite entry budget expected a b guard v)) :=
    (act_takes take cid _ guard).trans (by rw [hv]; rfl)
  have ends : ∀ {status : AdminStatus} {aux : Nat} {value : Int},
      runCalWrite entry budget expected a b guard v = complete status aux value v →
      onlyAnswered index (plainDone cid status aux value) s
        (settle (runCalWrite entry budget expected a b guard v)) := fun hr => by
    rw [hr, hv]
    exact completeWith_onlyAnswered take ..
  refine ⟨_, ran, fun h => ends (runCalWrite_entry h), fun he h => ends (runCalWrite_budget he h),
    fun he hb h => ends (runCalWrite_wordA he hb h), fun he hb ha h => ends (runCalWrite_gain he hb ha h),
    fun he hb ha hgain => ?_⟩
  have fields := runCalWrite_fields (expected := expected) (guard := guard) (s := v) he hb ha hgain
    (congrArg (fun t => (Table.look t (sixteenth entry.toNat)).counter) cells)
  refine ⟨fun h => ends ?_, fun h1 h2 => ends ?_, fun h1 h2 h3 => ends ?_, fun h1 h2 h3 => ?_⟩
  · rw [fields, if_pos h]
  · rw [fields, if_neg (not_not_intro h1), if_pos h2]
  · rw [fields, if_neg (not_not_intro h1), if_neg (Nat.not_le.2 h2), if_pos h3]
  · rw [if_neg (not_not_intro h1), if_neg (Nat.not_le.2 h2), if_neg (by simp [h3]),
      budgetPulses_eq hb] at fields
    obtain ⟨u, hu⟩ : ∃ u, u = runCalWrite entry budget expected a b guard v := ⟨_, rfl⟩
    have hue : u = { v with
        cells := s.cells.put (sixteenth entry.toNat) { s.cells.look (sixteenth entry.toNat) with
          counter := (s.cells.look (sixteenth entry.toNat)).counter + 1 }
        writeCtx := some
          { entry := sixteenth entry.toNat, image := imageOf a (if entry.toNat ≤ 7 then b else 0),
            budget := 4 * 2 ^ budget.toNat, pulses := 0, phase := .charge }
        ax := .executing
          { position := index, commandId := cid, cmd := .calWrite entry budget expected a b,
            work := .calWriting } } := by
      rw [hu, fields, hv]
      rfl
    obtain ⟨w, aside, head, slots, scans, sqs, cqs⟩ := settle_taken (u := u) take (by rw [hue, hv]; rfl)
      (by rw [hue, hv]; rfl) (by rw [hue, hv]; rfl) (by rw [hue, hv]; rfl)
      (cqsGrow_of_eq (by rw [hue, hv]; rfl))
    rw [← hu]
    refine ⟨aside.trans (by rw [hue, hv]; rfl), head, slots, scans, sqs, cqs, ?_⟩
    rw [settle_inHand w (by rw [hue]) (by simp) (by simp), hue]

end Sys2Proof.Machine
end

section
/-! The buffer commands: IDENTIFY and CAL_READ, and the bytes of their records (chapters 7 and 10). -/

namespace Sys2Proof.Machine

-- Parallel elaboration of the one text reserves more memory than the check allows.
set_option Elab.async false

/-! ### Bytes packed into a record -/

theorem packBytes_lt (l : List Byte) : packBytes l < 256 ^ l.length := by
  induction l with
  | nil => simp [packBytes]
  | cons x l ih =>
    have := x.isLt
    simp only [packBytes, List.length_cons, Nat.pow_succ]
    omega

theorem packBytes_byte (l : List Byte) (n : Nat) :
    packBytes l / 256 ^ n % 256 = (l[n]?.getD 0).toNat := by
  induction l generalizing n with
  | nil => simp [packBytes]
  | cons x l ih =>
    have hx := x.isLt
    cases n with
    | zero => simp [packBytes]; omega
    | succ n =>
      have : (x.toNat + 256 * packBytes l) / 256 = packBytes l := by omega
      rw [packBytes, Nat.pow_succ', ← Nat.div_div_eq_div_mul, this, ih]
      simp

/-- The bytes of a record formed of a list of bytes are those of the list, and 0 behind them. -/
theorem packed_byte {k : Nat} {l : List Byte} (h : 8 * l.length ≤ k) (n : Nat) :
    (BitVec.ofNat k (packBytes l)).extractLsb' (8 * n) 8 = l[n]?.getD 0 := by
  have small : packBytes l < 2 ^ k := calc
    packBytes l < 256 ^ l.length := packBytes_lt l
    _ = 2 ^ (8 * l.length) := by rw [Nat.pow_mul]
    _ ≤ 2 ^ k := Nat.pow_le_pow_right (by decide) h
  apply BitVec.eq_of_toNat_eq
  rw [BitVec.extractLsb'_toNat, BitVec.toNat_ofNat, Nat.mod_eq_of_lt small, Nat.shiftRight_eq_div_pow,
    ← packBytes_byte, Nat.pow_mul]

theorem halfBytes_ofNat (n : Nat) :
    halfBytes (BitVec.ofNat 16 n) = [BitVec.ofNat 8 n, BitVec.ofNat 8 (n / 256)] := by
  have low : (BitVec.ofNat 16 n).extractLsb' 0 8 = BitVec.ofNat 8 n := by
    apply BitVec.eq_of_toNat_eq
    simp
  have high : (BitVec.ofNat 16 n).extractLsb' 8 8 = BitVec.ofNat 8 (n / 256) := by
    apply BitVec.eq_of_toNat_eq
    simp [Nat.shiftRight_eq_div_pow]; omega
  rw [halfBytes, low, high]

theorem identityRecord_byte (s : State) (n : Nat) :
    (identityRecord s).extractLsb' (8 * n) 8 = (identityBytes s)[n]?.getD 0 :=
  packed_byte (by decide : 8 * 104 ≤ 2048) n

theorem identityBytes_states (s : State) (k : Fin 8) :
    (identityBytes s)[16 + k.val]? = some (byteOf (s.scans.look k).state.code)
      ∧ (identityBytes s)[24 + k.val]? = some (byteOf (s.sqs.look k).state.code)
      ∧ (identityBytes s)[32 + k.val]? = some (byteOf (s.cqs.look k).state.code) := by
  fin_cases k <;> exact ⟨rfl, rfl, rfl⟩

theorem identityBytes_entries (s : State) (e : Fin 16) :
    (identityBytes s)[40 + 4 * e.val]?
        = (halfBytes (BitVec.ofNat 16 (s.shadows.look e).generation))[0]?
      ∧ (identityBytes s)[41 + 4 * e.val]?
        = (halfBytes (BitVec.ofNat 16 (s.shadows.look e).generation))[1]?
      ∧ (identityBytes s)[42 + 4 * e.val]? = some (if (s.shadows.look e).valid then 1 else 0)
      ∧ (identityBytes s)[43 + 4 * e.val]? = some 0 := by
  fin_cases e <;> exact ⟨rfl, rfl, rfl, rfl⟩

theorem calRecord_byte (c : Cell) (valid : Bool) (n : Nat) :
    (calRecord c valid).extractLsb' (8 * n) 8
      = (wordBytes c.image.wordA ++ wordBytes c.image.wordB ++ halfBytes c.image.crc
          ++ halfBytes (BitVec.ofNat 16 c.counter) ++ [if valid then 1 else 0])[n]?.getD 0 :=
  packed_byte (by decide : 8 * 13 ≤ 128) n

/-- The bits of the byte of two flags. -/
theorem twoFlags_getLsbD (x y : Bool) : (byteOf (bitAt 0 x + bitAt 1 y)).getLsbD 0 = x
    ∧ (byteOf (bitAt 0 x + bitAt 1 y)).getLsbD 1 = y
    ∧ ∀ n, 2 ≤ n → (byteOf (bitAt 0 x + bitAt 1 y)).getLsbD n = false := by
  refine ⟨by cases x <;> cases y <;> decide, by cases x <;> cases y <;> decide, fun n h => ?_⟩
  rcases lt_or_ge n 8 with h8 | h8
  · interval_cases n <;> cases x <;> cases y <;> decide
  · exact BitVec.getLsbD_of_ge _ _ h8

theorem identityRecord_format (s : State) (b : Nat → Byte)
    (h : ∀ n, b n = (identityRecord s).extractLsb' (8 * n) 8) :
    [b 0, b 1, b 2, b 3] = [0x10#8, 0x42#8, 0x11#8, 0x3B#8]
      ∧ [b 4, b 5, b 6, b 7, b 8, b 9, b 10, b 11, b 12]
        = [16#8, 2#8, 2#8, 16#8, 8#8, 8#8, 8#8, 16#8, 128#8]
      ∧ b 13 = BitVec.ofNat 8 (freePlaces s)
      ∧ b 14 = byteOf (bitAt 0 s.convs.ca.degraded + bitAt 1 s.convs.cb.degraded) ∧ b 15 = 0
      ∧ (∀ k : Fin 8, b (16 + k.val) = byteOf (s.scans.look k).state.code
          ∧ b (24 + k.val) = byteOf (s.sqs.look k).state.code
          ∧ b (32 + k.val) = byteOf (s.cqs.look k).state.code)
      ∧ (∀ e : Fin 16, b (40 + 4 * e.val) = BitVec.ofNat 8 (s.shadows.look e).generation
          ∧ b (41 + 4 * e.val) = BitVec.ofNat 8 ((s.shadows.look e).generation / 256)
          ∧ b (42 + 4 * e.val) = (if (s.shadows.look e).valid then 1 else 0)
          ∧ b (43 + 4 * e.val) = 0)
      ∧ ∀ n, 104 ≤ n → b n = 0 := by
  obtain rfl : b = fun n => (identityBytes s)[n]?.getD 0 :=
    funext fun n => (h n).trans (identityRecord_byte s n)
  refine ⟨rfl, rfl, rfl, rfl, rfl, fun k => ?_, fun e => ?_, fun n hn => ?_⟩
  · obtain ⟨h1, h2, h3⟩ := identityBytes_states s k
    exact ⟨by simp [h1], by simp [h2], by simp [h3]⟩
  · obtain ⟨h1, h2, h3, h4⟩ := identityBytes_entries s e
    rw [halfBytes_ofNat] at h1 h2
    exact ⟨by simp [h1], by simp [h2], by simp [h3], by simp [h4]⟩
  · have : (identityBytes s).length ≤ n := hn
    simp [List.getElem?_eq_none this]

theorem calRecord_format (c : Cell) (valid : Bool) (b : Nat → Byte)
    (h : ∀ n, b n = (calRecord c valid).extractLsb' (8 * n) 8) :
    (∀ n, n < 4 → b n = c.image.wordA.extractLsb' (8 * n) 8
        ∧ b (4 + n) = c.image.wordB.extractLsb' (8 * n) 8)
      ∧ b 8 = c.image.crc.extractLsb' 0 8 ∧ b 9 = c.image.crc.extractLsb' 8 8
      ∧ b 10 = BitVec.ofNat 8 c.counter ∧ b 11 = BitVec.ofNat 8 (c.counter / 256)
      ∧ b 12 = (if valid then 1 else 0) ∧ ∀ n, 13 ≤ n → b n = 0 := by
  obtain rfl : b = fun n => (wordBytes c.image.wordA ++ wordBytes c.image.wordB
      ++ halfBytes c.image.crc ++ halfBytes (BitVec.ofNat 16 c.counter)
      ++ [if valid then 1 else 0])[n]?.getD 0 := funext fun n => (h n).trans (calRecord_byte c valid n)
  rw [halfBytes_ofNat]
  refine ⟨fun n hn => ?_, rfl, rfl, rfl, rfl, rfl, fun n hn => ?_⟩
  · interval_cases n <;> exact ⟨rfl, rfl⟩
  · refine (congrArg (Option.getD · (0 : Byte)) (List.getElem?_eq_none ?_)).trans rfl
    exact hn

/-! ### The commands -/

theorem runCommand_calRead (entry : Byte) (addr : Word) (guard : Bool) (s : State) :
    runCommand (.calRead entry addr) guard s = runCalRead entry addr s := rfl

theorem runCalRead_of_invalid {entry : Byte} (h : 15 < entry.toNat) (addr : Word) (s : State) :
    runCalRead entry addr s = complete .invalidField 1 0 s := by simp [runCalRead, h]

theorem runCalRead_of_valid {entry : Byte} (h : entry.toNat ≤ 15) (addr : Word) (s : State) :
    runCalRead entry addr s = keepWork (.calReadDma addr
      (calRecord (s.cells.look (sixteenth entry.toNat)) (s.shadows.look (sixteenth entry.toNat)).valid)
      (s.cells.look (sixteenth entry.toNat)).counter) s := by
  simp [runCalRead, Nat.not_lt.2 h]

theorem identityRecord_taken (cid : BitVec 16) (cmd : AdminCmd) {index : Nat} {s : State} :
    identityRecord (commandTaken cid cmd index s) = identityRecord s := by
  have states : ∀ q, ((commandTaken cid cmd index s).sqs.look q).state = (s.sqs.look q).state := by
    intro q
    by_cases h : q = 0
    · rw [h, commandTaken_sqs, Table.look_put_same]
    · rw [commandTaken_sqs, Table.look_put_ne _ _ _ _ h]
  simp only [identityRecord, identityBytes, states]
  rfl

/-- A command taken that waits for a transfer of its own keeps its context, and all else but HEAD. -/
theorem settle_waits {index : Nat} {s u : State} (h : s.mayTake index) {cid : BitVec 16} {cmd : AdminCmd}
    {work : AxWork} (hu : u = keepWork work (commandTaken cid cmd index s))
    (hs : ∀ j, work ≠ .stopping j) (hd : ∀ q n, work ≠ .deleting q n) :
    (settle u).ax = .executing { position := index, commandId := cid, cmd := cmd, work := work }
      ∧ headTaken index s (settle u) ∧ (settle u).aside = s.aside ∧ slotsStand [] s (settle u)
      ∧ scansStand [] s (settle u) ∧ sqsStand [0] s (settle u) ∧ cqsGrow [] s (settle u) := by
  rw [keepWork_of (commandTaken_ax cid cmd index s)] at hu
  obtain ⟨w, aside, head, slots, scans, sqs, cqs⟩ := settle_taken (u := u) h (by rw [hu]; rfl)
    (by rw [hu]; rfl) (by rw [hu]; rfl) (by rw [hu]; rfl) (cqsGrow_of_eq (by rw [hu]; rfl))
  have ax := settle_inHand w (by rw [hu]) hs hd
  exact ⟨ax.trans (by rw [hu]), head, aside.trans (by rw [hu]; rfl), slots, scans, sqs, cqs⟩

theorem identifyDone_of {s : State} {ctx : AxCtx} {a : Word} {buf : BitVec 2048}
    (hax : s.ax = .executing ctx) (h : ctx.work = .identifyDma a buf) (ok : Bool) :
    identifyDone ok s = complete (if ok then .success else .busError) 0 (if ok then 256 else 0) s := by
  have : s.axWork = .identifyDma a buf := by simp [State.axWork, hax, h]
  cases ok <;> simp [identifyDone, this]

theorem calReadDone_of {s : State} {ctx : AxCtx} {a : Word} {buf : BitVec 128} {g : Nat}
    (hax : s.ax = .executing ctx) (h : ctx.work = .calReadDma a buf g) (ok : Bool) :
    calReadDone ok s = complete (if ok then .success else .busError) 0 (if ok then (g : Int) else 0) s := by
  have : s.axWork = .calReadDma a buf g := by simp [State.axWork, hax, h]
  cases ok <;> simp [calReadDone, this]

theorem bufferCommands_taken {index : Nat} {s : State} (take : s.mayTake index) (cid : BitVec 16)
    (addr : Word) :
    exec (.identify cid addr) s = .next (settle (keepWork (.identifyDma addr (identityRecord s))
        (commandTaken cid (.identify addr) index s))) := by
  rw [← identityRecord_taken cid (.identify addr) (index := index)]
  exact (act_takes take cid _ true).trans rfl

/-- Settles O42. -/
theorem bufferCommands : Obligations.BufferCommands := by
  unfold Obligations.BufferCommands
  refine ⟨fun cid addr entry index s => ⟨fun take => ?_, fun ctx ok work hax hcq =>
    ⟨fun a buf h => ?_, fun a buf gen h => ?_⟩⟩, fun s b h => ?_, calRecord_format⟩
  · obtain ⟨ax, head, aside, slots, scans, sqs, cqs⟩ := settle_waits take
      (cid := cid) (cmd := .identify addr) (work := .identifyDma addr (identityRecord s)) rfl
      (by simp) (by simp)
    refine ⟨_, _, bufferCommands_taken take cid addr, ax, head, aside, slots, scans, sqs, cqs,
      act_takes take cid _ true, fun bad => ?_, fun good => ?_⟩
    · rw [runCommand_calRead, runCalRead_of_invalid bad]
      exact completeWith_onlyAnswered take ..
    · rw [runCommand_calRead, runCalRead_of_valid good]
      exact settle_waits take rfl (by simp) (by simp)
  · obtain ⟨t, ran, aside, slots, scans, sqs, cqs, ans⟩ := act_completes work hax hcq
      (identifyDone_of hax h ok) rfl rfl rfl rfl rfl rfl
    refine ⟨t, ran, aside, slots, scans, sqs, cqs, ?_⟩
    cases ok <;> exact ans
  · obtain ⟨t, ran, aside, slots, scans, sqs, cqs, ans⟩ := act_completes work hax hcq
      (calReadDone_of hax h ok) rfl rfl rfl rfl rfl rfl
    refine ⟨t, ran, aside, slots, scans, sqs, cqs, ?_⟩
    cases ok <;> exact ans
  · obtain ⟨ident, sizes, free, flags, zero, states, entries, tail⟩ := identityRecord_format s b h
    obtain ⟨f0, f1, f2⟩ := twoFlags_getLsbD s.convs.ca.degraded s.convs.cb.degraded
    rw [← flags] at f0 f1 f2
    refine ⟨ident, sizes, free, f0, f1, f2, zero, fun k => ?_, entries, tail⟩
    obtain ⟨scan, sq, cq⟩ := states k
    refine ⟨scan, sq.trans ?_, cq.trans ?_⟩
    · cases (s.sqs.look k).state <;> rfl
    · cases (s.cqs.look k).state <;> rfl

end Sys2Proof.Machine
end

section
/-! The administrative fetch, and the commands on rings (chapter 10). -/

namespace Sys2Proof.Machine

-- Parallel elaboration of the one text reserves more memory than the check allows.
set_option Elab.async false

/-! ### The fetch of a command (R181) -/

theorem act_outcome (f : State → State) (s : State) : ∃ t, act f s = .next t := by
  unfold act
  split <;> exact ⟨_, rfl⟩

theorem takeCommand_guard {cmd : AdminCmd} (h : ∀ (g : Bool) (s : State),
    runCommand cmd g s = runCommand cmd true s) (cid : BitVec 16) (guard : Bool) (s : State) :
    takeCommand cid cmd guard s = takeCommand cid cmd true s := by
  unfold takeCommand
  split
  · simp only [h guard]
  · rfl

/-- The fetch of an entry is the command that the entry holds, under the guard of that event. -/
theorem adminFetchDone_eq {entry : Entry} {cmd : AdminCmd} (h : entryAdmin entry = cmd)
    (hg : ∀ (g : Bool) (s : State), runCommand cmd g s = runCommand cmd true s) (guard : Bool)
    (s : State) :
    exec (.adminFetchDone entry guard) s = act (takeCommand (entryHalf entry 2) cmd true) s := by
  calc exec (.adminFetchDone entry guard) s
      = act (takeCommand (entryHalf entry 2) (entryAdmin entry) guard) s := rfl
    _ = _ := by rw [h]; exact act_congr (takeCommand_guard hg _ guard s)

theorem entryAdmin_other {entry : Entry} (h : (entryOpcode entry).toNat < 16
    ∨ 27 < (entryOpcode entry).toNat) : entryAdmin entry = .other (entryOpcode entry) := by
  have h' : (entryByte entry 0).toNat < 16 ∨ 27 < (entryByte entry 0).toNat := h
  unfold entryAdmin
  dsimp only
  split <;> first | rfl | omega

/-- The command of an entry by its OPCODE (R203). -/
theorem entryAdmin_of {entry : Entry} {n : Nat} (h : entryOpcode entry = BitVec.ofNat 8 n)
    (hn : n < 256) : (entryByte entry 0).toNat = n := by
  have : (entryByte entry 0).toNat = (BitVec.ofNat 8 n).toNat := congrArg BitVec.toNat h
  simpa [Nat.mod_eq_of_lt hn] using this

/-- Settles O43. -/
theorem adminFetch : Obligations.AdminFetch := by
  unfold Obligations.AdminFetch
  intro entry guard s
  refine ⟨fun reset hd hi hsq hne => ?_, fun work hax hsq => ?_, fun cmd named => ?_,
    fun cid opcode index take bad => ?_⟩
  · have work : s.atWork := ⟨reset, .inl hd⟩
    obtain ⟨u, hu⟩ : ∃ u, u = { s with ax := .fetching (s.sqs.look 0).head } := ⟨_, rfl⟩
    have hf : adminFetchStage s = u := by simp [adminFetchStage, hi, hd, hsq, hne, hu]
    obtain ⟨ran, w, aside, slots, scans, sqs, cqs⟩ := act_bare work hf (by rw [hu]) (by rw [hu])
      (by rw [hu]) (by rw [hu]) (cqsGrow_of_eq (by rw [hu]))
    have ax := settle_ax w (by simp [hu]) (by simp [State.axWork, hu]) (by simp [State.axWork, hu])
    exact ⟨_, ran, ax.trans (by rw [hu]), aside.trans (by rw [hu]; rfl), slots, scans, sqs, cqs⟩
  · obtain ⟨u, hu⟩ : ∃ u, u = { s with ax := .idle } := ⟨_, rfl⟩
    have hf : takeCommand (entryTag entry) (entryAdmin entry) guard s = u := by
      simp [takeCommand, hax, hu]
    obtain ⟨ran, w, aside, slots, scans, sqs, cqs⟩ := act_bare work hf (by rw [hu]) (by rw [hu])
      (by rw [hu]) (by rw [hu]) (cqsGrow_of_eq (by rw [hu]))
    exact ⟨_, ran, settle_idle w (by rw [hu]), sqs, cqs, aside.trans (by rw [hu]; rfl), slots, scans⟩
  · suffices same : exec (.adminFetchDone entry guard) s = exec cmd s by
      obtain ⟨t, ran⟩ := act_outcome (takeCommand (entryTag entry) (entryAdmin entry) guard) s
      exact ⟨t, ran, same ▸ ran⟩
    rcases named with ⟨op, rfl⟩ | ⟨op, rfl⟩ | ⟨op, rfl⟩ | ⟨op, rfl⟩ | ⟨op, rfl⟩ | ⟨op, rfl⟩ | ⟨op, rfl⟩
      | ⟨op, rfl⟩ | ⟨op, rfl⟩ | ⟨op, rfl⟩ | ⟨op, rfl⟩ | ⟨op, rfl⟩
    case inr.inr.inr.inr.inr.inr.inr.inl =>
      calc exec (.adminFetchDone entry guard) s
          = act (takeCommand (entryHalf entry 2) (entryAdmin entry) guard) s := rfl
        _ = _ := by simp only [entryAdmin, entryAdmin_of (n := 0x17) op (by decide)]; rfl
    all_goals
      refine (adminFetchDone_eq ?_ (fun _ _ => rfl) guard s).trans rfl
      simp only [entryAdmin, entryAdmin_of (n := _) op (by decide)]
  · have ran : exec (.invalidOpcode cid opcode) s = act (takeCommand cid (.other opcode) true) s := by
      have : namesAdmin opcode = false := by simp [namesAdmin]; omega
      simp [exec, execInvalidOpcode, this]
    refine ⟨_, ran.trans (act_takes take cid _ true), ends_onlyAnswered take rfl, fun op tag => ?_⟩
    have other := entryAdmin_other (entry := entry) (by rwa [op])
    rw [op] at other
    rw [adminFetchDone_eq other (fun _ _ => rfl), tag]
    exact act_takes take cid _ true

end Sys2Proof.Machine
end

section
/-! CREATE_CQ, CREATE_SQ and DELETE_CQ (chapter 10). -/

namespace Sys2Proof.Machine

-- Parallel elaboration of the one text reserves more memory than the check allows.
set_option Elab.async false

/-! ### A command that changes the device and ends -/

section completed

variable {index : Nat} {s v u : State} {ctx : AxCtx} {status : AdminStatus} {aux : Nat} {value : Int}
  (w : u.device = .ready ∨ u.device = .halting ∧ u.heldBack)
  (hu : u = complete status aux value v) (hax : v.ax = .executing ctx)

include w hu

theorem settle_completed_answered (hax : v.ax = .executing ctx) (h0 : v.cqs.look 0 = s.cqs.look 0)
    (hcq : (s.cqs.look 0).state = .active) :
    answered (plainDone ctx.commandId status aux value) s (settle u) := by
  have ans := complete_answered (s := v) hax (by rwa [h0]) status aux value
  refine settle_answered w ?_
  simpa only [answered, h0, hu] using ans

theorem settle_completed_grow {l : List (Fin 8)} (h : ∀ c, c ∉ l → v.cqs.look c = s.cqs.look c) :
    cqsGrow l s (settle u) := fun c hc => by
  have one := completeWith_grow status aux value .empty 0 v c (by simp)
  rw [h c hc] at one
  rw [hu] at w ⊢
  exact cqGrows_trans one (settle_cqsGrow w c (by simp))

omit hu in
theorem settle_headTaken (hsq : (s.sqs.look 0).state = .active)
    (h : u.sqs.look 0 = { s.sqs.look 0 with head := nextIndex index (s.sqs.look 0).size }) :
    headTaken index s (settle u) := by
  rw [headTaken, settle_sqsStand w 0 (by simp) (by rw [h]; simp [hsq]), h]

end completed

/-! ### CREATE_CQ (R187, R184) -/

theorem clearPendingBit_getLsbD (c : Fin 8) (s : State) {n : Nat} (h : n < 8) :
    (clearPendingBit c s).intPending.getLsbD n = (s.intPending.getLsbD n && decide (n ≠ c.val)) := by
  have one : ∀ (c n : Fin 8), (1#8 <<< c.val).getLsbD n.val = decide (n.val = c.val) := by decide
  have bit := one c ⟨n, h⟩
  simp only at bit
  rw [clearPendingBit, BitVec.getLsbD_and, BitVec.getLsbD_not, bit]
  simp [h]

theorem ringFits_iff {base : Word} {unit size : Nat} : ringFits base unit size = true
    ↔ base.toNat % unit = 0 ∧ base.toNat + unit * size ≤ 2 ^ 32 := by simp [ringFits]

/-- Where a queue id of 1 to 7 passes the checks of the id and of the device. -/
theorem queueId_of {id : Byte} (h1 : 1 ≤ id.toNat) (h7 : id.toNat ≤ 7) :
    ¬ (id.toNat = 0 ∨ 7 < id.toNat) ∧ eighth id.toNat ≠ 0 := by
  refine ⟨by omega, fun e => ?_⟩
  have := congrArg Fin.val e
  rw [eighth_val h7] at this
  exact absurd this (by simp; omega)

section createCq

variable {id threshold timer : Byte} {base : Word} {size : BitVec 16} {ie : Bool} {s : State}

theorem runCreateCq_id (h : id.toNat = 0 ∨ 7 < id.toNat) :
    runCreateCq id base size ie threshold timer s = complete .invalidField 1 0 s := by
  simp [runCreateCq, h]

variable (h1 : 1 ≤ id.toNat) (h7 : id.toNat ≤ 7)

include h1 h7

theorem runCreateCq_busy (hd : s.device ≠ .ready) :
    runCreateCq id base size ie threshold timer s = complete .busy 0 0 s := by
  obtain ⟨good, -⟩ := queueId_of h1 h7
  simp [runCreateCq, good, hd]

variable (hd : s.device = .ready)

include hd

theorem runCreateCq_exists (h : (s.cqs.look (eighth id.toNat)).state ≠ .absent) :
    runCreateCq id base size ie threshold timer s = complete .queueExists 1 0 s := by
  obtain ⟨good, -⟩ := queueId_of h1 h7
  simp [runCreateCq, good, hd, h]

/-- The checks of the fields, once the ring is NONE. -/
theorem runCreateCq_fields (h : (s.cqs.look (eighth id.toNat)).state = .absent) :
    runCreateCq id base size ie threshold timer s =
      if ¬ (base.toNat % 32 = 0 ∧ base.toNat + 32 * size.toNat ≤ 2 ^ 32) then
        complete .invalidField 2 0 s
      else if size.toNat < 2 ∨ 256 < size.toNat then complete .invalidField 3 0 s
      else if threshold.toNat = 0 ∨ 64 < threshold.toNat then complete .invalidField 5 0 s
      else complete .success 0 0 ((clearPendingBit (eighth id.toNat) s).setCq (eighth id.toNat)
        (newCq base size.toNat ie threshold.toNat timer.toNat)) := by
  obtain ⟨good, -⟩ := queueId_of h1 h7
  simp only [runCreateCq, good, hd, h, if_false, ne_eq, not_true_eq_false, ← ringFits_iff,
    Bool.not_eq_true, Bool.not_eq_eq_eq_not, Bool.not_true]

end createCq

/-- The event of a CREATE_CQ that passes its checks. -/
theorem createCq_succeeds {index : Nat} {s u : State} {cid : BitVec 16} {cmd : AdminCmd} {c : Fin 8}
    {d : Cq} (take : s.mayTake index) (hc : c ≠ 0)
    (hu : u = complete .success 0 0
      ((clearPendingBit c (commandTaken cid cmd index s)).setCq c d)) :
    answered (plainDone cid .success 0 0) s (settle u) ∧ headTaken index s (settle u)
      ∧ cqGrows d ((settle u).cqs.look c)
      ∧ (settle u).aside = { s with intPending := (settle u).intPending }.aside
      ∧ (∀ n, n < 8 → (settle u).intPending.getLsbD n
          = (s.intPending.getLsbD n && decide (n ≠ c.val)))
      ∧ slotsStand [] s (settle u) ∧ scansStand [] s (settle u) ∧ sqsStand [0] s (settle u)
      ∧ cqsGrow [c] s (settle u) := by
  obtain ⟨v, hv⟩ : ∃ v, v = (clearPendingBit c (commandTaken cid cmd index s)).setCq c d := ⟨_, rfl⟩
  rw [← hv] at hu
  have hax : v.ax = .executing { position := index, commandId := cid, cmd := cmd, work := .nothing } := by
    rw [hv]; rfl
  have hcqs : v.cqs = s.cqs.put c d := by rw [hv]; rfl
  have other : ∀ b, b ≠ c → v.cqs.look b = s.cqs.look b := fun b hb => by
    rw [hcqs, Table.look_put_ne _ _ _ _ hb]
  have hslots : u.slots = s.slots := by rw [hu, complete_slots, hv]; rfl
  have hscans : u.scans = s.scans := by rw [hu, complete_scans, hv]; rfl
  have hsqs : u.sqs = s.sqs.put 0 { s.sqs.look 0 with head := nextIndex index (s.sqs.look 0).size } := by
    rw [hu, complete_sqs, hv]; rfl
  have hua : u.aside = { s with intPending := v.intPending }.aside := by
    rw [hu, complete_aside, hv]; rfl
  have hd : u.device = s.device := (aside_device hua).trans rfl
  obtain ⟨work, -, -, hsq, hcq⟩ := take
  have w : u.device = .ready ∨ u.device = .halting ∧ u.heldBack := by
    rw [hd]
    exact work.2.imp_right fun ⟨hd, hb⟩ => ⟨hd, heldBack_of_slots hb hslots⟩
  have aside := (settle_aside_work w).trans hua
  have pending : (settle u).intPending = v.intPending := (aside_intPending aside).trans rfl
  refine ⟨settle_completed_answered w hu hax (other 0 (Ne.symm hc)) hcq,
    settle_headTaken w hsq (by rw [hsqs, Table.look_put_same]), ?_, ?_, fun n hn => ?_,
    slotsStand_via (fun _ _ => by rw [hslots]) (settle_slotsStand w),
    scansStand_via (fun _ _ => by rw [hscans]) (settle_scansStand w), ?_,
    settle_completed_grow w hu fun b hb => other b (by simpa using hb)⟩
  · have one := completeWith_grow .success 0 0 .empty 0 v c (by simp)
    rw [hcqs, Table.look_put_same] at one
    rw [hu] at w ⊢
    exact cqGrows_trans one (settle_cqsGrow w c (by simp))
  · rw [pending]; exact aside
  · rw [pending, hv]
    exact clearPendingBit_getLsbD c _ hn
  · exact sqsStand_via (fun q hq => by rw [hsqs, Table.look_put_ne _ _ _ _ (by simpa using hq)])
      (settle_sqsStand w)

/-! ### CREATE_SQ (R189, R184) -/

section createSq

variable {id bound cls limit : Byte} {base : Word} {size : BitVec 16} {s : State}

theorem runCreateSq_id (h : id.toNat = 0 ∨ 7 < id.toNat) :
    runCreateSq id base size bound cls limit s = complete .invalidField 1 0 s := by
  simp [runCreateSq, h]

variable (h1 : 1 ≤ id.toNat) (h7 : id.toNat ≤ 7)

include h1 h7

theorem runCreateSq_busy (hd : s.device ≠ .ready) :
    runCreateSq id base size bound cls limit s = complete .busy 0 0 s := by
  obtain ⟨good, -⟩ := queueId_of h1 h7
  simp [runCreateSq, good, hd]

variable (hd : s.device = .ready)

include hd

theorem runCreateSq_exists (h : (s.sqs.look (eighth id.toNat)).state ≠ .absent) :
    runCreateSq id base size bound cls limit s = complete .queueExists 1 0 s := by
  obtain ⟨good, -⟩ := queueId_of h1 h7
  simp [runCreateSq, good, hd, h]

/-- The checks of the fields, once the ring is NONE. -/
theorem runCreateSq_fields (h : (s.sqs.look (eighth id.toNat)).state = .absent) :
    runCreateSq id base size bound cls limit s =
      if ¬ (base.toNat % 64 = 0 ∧ base.toNat + 64 * size.toNat ≤ 2 ^ 32) then
        complete .invalidField 2 0 s
      else if size.toNat < 2 ∨ 256 < size.toNat then complete .invalidField 3 0 s
      else if bound.toNat = 0 ∨ 7 < bound.toNat then complete .invalidField 4 0 s
      else if 3 < cls.toNat then complete .invalidField 5 0 s
      else if limit.toNat = 0 ∨ 16 < limit.toNat then complete .invalidField 6 0 s
      else if (s.cqs.look (eighth bound.toNat)).state ≠ .active then complete .noSuchQueue 4 0 s
      else complete .success 0 0 (s.setSq (eighth id.toNat)
        { state := .active, base := base, size := size.toNat, head := 0, tail := 0,
          boundCq := eighth bound.toNat, cls := classOf cls.toNat, limit := limit.toNat, seq := 0 }) := by
  obtain ⟨good, -⟩ := queueId_of h1 h7
  simp only [runCreateSq, good, hd, h, if_false, ne_eq, not_true_eq_false, ← ringFits_iff,
    Bool.not_eq_true, Bool.not_eq_eq_eq_not, Bool.not_true]

end createSq

/-- The event of a CREATE_SQ that passes its checks. -/
theorem createSq_succeeds {index : Nat} {s u : State} {cid : BitVec 16} {cmd : AdminCmd} {q : Fin 8}
    {d : Sq} (take : s.mayTake index) (hq : q ≠ 0) (hd : d.state = .active)
    (hu : u = complete .success 0 0 ((commandTaken cid cmd index s).setSq q d)) :
    answered (plainDone cid .success 0 0) s (settle u) ∧ headTaken index s (settle u)
      ∧ (settle u).sqs.look q = d ∧ (settle u).aside = s.aside ∧ slotsStand [] s (settle u)
      ∧ scansStand [] s (settle u) ∧ sqsStand [0, q] s (settle u) ∧ cqsGrow [] s (settle u) := by
  obtain ⟨v, hv⟩ : ∃ v, v = (commandTaken cid cmd index s).setSq q d := ⟨_, rfl⟩
  rw [← hv] at hu
  have hax : v.ax = .executing { position := index, commandId := cid, cmd := cmd, work := .nothing } := by
    rw [hv]; rfl
  have hcqs : ∀ c, v.cqs.look c = s.cqs.look c := fun c => by rw [hv]; rfl
  have hslots : u.slots = s.slots := by rw [hu, complete_slots, hv]; rfl
  have hscans : u.scans = s.scans := by rw [hu, complete_scans, hv]; rfl
  have hsqs : u.sqs = (s.sqs.put 0 { s.sqs.look 0 with
      head := nextIndex index (s.sqs.look 0).size }).put q d := by
    rw [hu, complete_sqs, hv]; rfl
  have hua : u.aside = s.aside := by rw [hu, complete_aside, hv]; rfl
  obtain ⟨work, -, -, hsq, hcq⟩ := take
  have w := work.of_frame hua hslots
  refine ⟨settle_completed_answered w hu hax (hcqs 0) hcq, settle_headTaken w hsq ?_, ?_,
    (settle_aside_work w).trans hua, slotsStand_via (fun _ _ => by rw [hslots]) (settle_slotsStand w),
    scansStand_via (fun _ _ => by rw [hscans]) (settle_scansStand w), ?_,
    settle_completed_grow w hu fun b _ => hcqs b⟩
  · rw [hsqs, Table.look_put_ne _ _ _ _ (Ne.symm hq), Table.look_put_same]
  · have same : u.sqs.look q = d := by rw [hsqs, Table.look_put_same]
    rw [settle_sqsStand w q (by simp) (by rw [same, hd]; decide), same]
  · refine sqsStand_via (fun p hp => ?_) (settle_sqsStand w)
    simp only [List.mem_cons, List.not_mem_nil, or_false, not_or] at hp
    rw [hsqs, Table.look_put_ne _ _ _ _ hp.2, Table.look_put_ne _ _ _ _ hp.1]

/-- Settles O44, by the checks of the two commands in their order. -/
theorem createRings : Obligations.CreateRings := by
  unfold Obligations.CreateRings
  intro cid id base size ie threshold timer bound cls limit index s take
  obtain ⟨cq, hcq⟩ : ∃ v, v = commandTaken cid (.createCq id base size ie threshold timer) index s :=
    ⟨_, rfl⟩
  obtain ⟨sq, hsq⟩ : ∃ v, v = commandTaken cid (.createSq id base size bound cls limit) index s :=
    ⟨_, rfl⟩
  have ranCq : exec (.createCq cid id base size ie threshold timer) s
      = .next (settle (runCreateCq id base size ie threshold timer cq)) :=
    (act_takes take cid _ true).trans (by rw [hcq]; rfl)
  have ranSq : exec (.createSq cid id base size bound cls limit) s
      = .next (settle (runCreateSq id base size bound cls limit sq)) :=
    (act_takes take cid _ true).trans (by rw [hsq]; rfl)
  have endsCq : ∀ {status : AdminStatus} {aux : Nat} {value : Int},
      runCreateCq id base size ie threshold timer cq = complete status aux value cq →
      onlyAnswered index (plainDone cid status aux value) s
        (settle (runCreateCq id base size ie threshold timer cq)) := fun hr => by
    rw [hr, hcq]
    exact completeWith_onlyAnswered take ..
  have endsSq : ∀ {status : AdminStatus} {aux : Nat} {value : Int},
      runCreateSq id base size bound cls limit sq = complete status aux value sq →
      onlyAnswered index (plainDone cid status aux value) s
        (settle (runCreateSq id base size bound cls limit sq)) := fun hr => by
    rw [hr, hsq]
    exact completeWith_onlyAnswered take ..
  have cqDevice : cq.device = s.device := by rw [hcq]; rfl
  have sqDevice : sq.device = s.device := by rw [hsq]; rfl
  have cqCqs : ∀ c, cq.cqs.look c = s.cqs.look c := fun c => by rw [hcq]; rfl
  have sqCqs : ∀ c, sq.cqs.look c = s.cqs.look c := fun c => by rw [hsq]; rfl
  have sqSqs : ∀ q, q ≠ 0 → sq.sqs.look q = s.sqs.look q := fun q hq => by
    rw [hsq, commandTaken_sqs, Table.look_put_ne _ _ _ _ hq]
  refine ⟨_, _, ranCq, ranSq, fun h => ⟨endsCq (runCreateCq_id h), endsSq (runCreateSq_id h)⟩,
    fun h1 h7 hd => ?_, fun h1 h7 hd => ?_⟩
  · have halting : s.device ≠ .ready := by rw [hd]; decide
    exact ⟨endsCq (runCreateCq_busy h1 h7 (cqDevice ▸ halting)),
      endsSq (runCreateSq_busy h1 h7 (sqDevice ▸ halting))⟩
  obtain ⟨-, hid⟩ := queueId_of h1 h7
  have hdc := cqDevice.trans hd
  have hds := sqDevice.trans hd
  refine ⟨fun h => endsCq (runCreateCq_exists h1 h7 hdc (by rwa [cqCqs])),
    fun h => endsSq (runCreateSq_exists h1 h7 hds (by rwa [sqSqs _ hid])), fun h => ?_, fun h => ?_⟩
  · have fields := runCreateCq_fields (base := base) (size := size) (ie := ie) (threshold := threshold)
      (timer := timer) h1 h7 hdc (by rwa [cqCqs])
    refine ⟨fun bad => endsCq ?_, fun align room => ⟨fun bad => endsCq ?_, fun low high =>
      ⟨fun bad => endsCq ?_, fun tlow thigh => ?_⟩⟩⟩
    · rw [fields, if_pos (by omega)]
    · rw [fields, if_neg (not_not_intro ⟨align, room⟩), if_pos bad]
    · rw [fields, if_neg (not_not_intro ⟨align, room⟩), if_neg (by omega), if_pos bad]
    · rw [if_neg (not_not_intro ⟨align, room⟩), if_neg (by omega), if_neg (by omega), hcq] at fields
      obtain ⟨u, hu⟩ : ∃ u, u = runCreateCq id base size ie threshold timer cq := ⟨_, rfl⟩
      rw [← hu]
      have := createCq_succeeds (u := u) take hid (by rw [hu, hcq]; exact fields)
      rw [eighth_val h7] at this
      exact this
  · have fields := runCreateSq_fields (base := base) (size := size) (bound := bound) (cls := cls)
      (limit := limit) h1 h7 hds (by rwa [sqSqs _ hid])
    rw [sqCqs] at fields
    refine ⟨fun bad => endsSq ?_, fun align room => ⟨fun bad => endsSq ?_, fun low high =>
      ⟨fun bad => endsSq ?_, fun blow bhigh => ⟨fun bad => endsSq ?_, fun hcls =>
      ⟨fun bad => endsSq ?_, fun llow lhigh => ⟨fun gone => endsSq ?_, fun live => ?_⟩⟩⟩⟩⟩⟩
    · rw [fields, if_pos (by omega)]
    · rw [fields, if_neg (not_not_intro ⟨align, room⟩), if_pos bad]
    · rw [fields, if_neg (not_not_intro ⟨align, room⟩), if_neg (by omega), if_pos bad]
    · rw [fields, if_neg (not_not_intro ⟨align, room⟩), if_neg (by omega), if_neg (by omega), if_pos bad]
    · rw [fields, if_neg (not_not_intro ⟨align, room⟩), if_neg (by omega), if_neg (by omega),
        if_neg (by omega), if_pos bad]
    · rw [fields, if_neg (not_not_intro ⟨align, room⟩), if_neg (by omega), if_neg (by omega),
        if_neg (by omega), if_neg (by omega), if_pos gone]
    · rw [if_neg (not_not_intro ⟨align, room⟩), if_neg (by omega), if_neg (by omega),
        if_neg (by omega), if_neg (by omega), if_neg (not_not_intro live), hsq] at fields
      obtain ⟨u, hu⟩ : ∃ u, u = runCreateSq id base size bound cls limit sq := ⟨_, rfl⟩
      rw [← hu]
      exact createSq_succeeds (u := u) take hid rfl (by rw [hu, hsq]; exact fields)

end Sys2Proof.Machine
end

section
/-! Rings that are not ACTIVE, discarded members, and DELETE_CQ (chapters 9 and 10). -/

namespace Sys2Proof.Machine

-- Parallel elaboration of the one text reserves more memory than the check allows.
set_option Elab.async false

/-! ### A ring that is not ACTIVE takes nothing (R168, R169) -/

/-- Ring `c` stands, if it is not ACTIVE. -/
def shutStands (c : Fin 8) (s t : State) : Prop :=
  (s.cqs.look c).state ≠ .active → t.cqs.look c = s.cqs.look c

section shutStands

variable {c : Fin 8}

theorem shutStands_of_eq {s t : State} (h : t.cqs = s.cqs) : shutStands c s t := fun _ => by rw [h]

theorem shutStands_trans {s t u : State} (h : shutStands c s t) (k : shutStands c t u) :
    shutStands c s u := fun shut => (k (by rwa [h shut])).trans (h shut)

theorem shutStands_foldl {α : Type} {f : State → α → State} (h : ∀ s a, shutStands c s (f s a))
    (l : List α) (s : State) : shutStands c s (l.foldl f s) := by
  induction l generalizing s with
  | nil => exact shutStands_of_eq rfl
  | cons a l ih => exact shutStands_trans (h s a) (ih _)

theorem joinList_shut (b : Fin 8) (m : Member) (s : State) : shutStands c s (joinList b m s) := by
  intro shut
  unfold joinList
  split
  · rename_i active
    have : c ≠ b := fun e => shut (e ▸ active)
    simp [this]
  · rfl

theorem handOff_shut (i : Fin 16) (s : State) : shutStands c s (handOff i s) := by
  unfold handOff
  repeat' split
  · exact shutStands_of_eq rfl
  · exact joinList_shut _ _ _
  · exact shutStands_of_eq (freeSlot_cqs _ _)

theorem postSlot_shut (i : Fin 16) (res : Result) (s : State) : shutStands c s (postSlot i res s) := by
  unfold postSlot
  split
  · exact shutStands_of_eq rfl
  · exact handOff_shut i (s.setSlot i _)

theorem completeWith_shut (status : AdminStatus) (aux : Nat) (value : Int) (sc : ScanState)
    (pass : Nat) (s : State) : shutStands c s (completeWith status aux value sc pass s) := by
  unfold completeWith
  split
  · exact joinList_shut 0 _ s
  · exact shutStands_of_eq rfl

theorem fenceRelease_shutStands (i : Fin 16) (s : State) : shutStands c s (fenceRelease i s) := by
  unfold fenceRelease
  repeat' split
  · exact postSlot_shut _ _ _
  · exact shutStands_of_eq rfl
  · exact shutStands_of_eq rfl

theorem joinScanDone_shut (k : Fin 8) (st : ScanDoneStatus) (s : State) :
    shutStands c s (joinScanDone k st s) := by
  unfold joinScanDone
  dsimp only
  split
  · exact joinList_shut _ _ _
  · exact shutStands_of_eq rfl

theorem completeStop_shut (k : Fin 8) (s : State) : shutStands c s (completeStop k s) := by
  unfold completeStop
  split
  · exact completeWith_shut _ _ _ _ _ s
  · exact shutStands_of_eq rfl

theorem passComplete_shut (k : Fin 8) (s : State) : shutStands c s (passComplete k s) := by
  unfold passComplete
  dsimp only
  repeat' split
  · exact shutStands_of_eq rfl
  · exact joinScanDone_shut k _ (s.setScan k _)
  · exact shutStands_of_eq rfl
  · exact shutStands_trans (joinScanDone_shut k _ (s.setScan k _)) (completeStop_shut k _)
  · exact shutStands_of_eq rfl

theorem deleteSqStage_shut (s : State) : shutStands c s (deleteSqStage s) := by
  unfold deleteSqStage
  repeat' split
  · exact completeWith_shut _ _ _ _ _ (s.setSq _ _)
  · exact shutStands_of_eq rfl
  · exact shutStands_of_eq rfl

theorem beginWrite_shut (b : Fin 8) (s : State) : shutStands c s (beginWrite b s) := by
  intro shut
  unfold beginWrite
  dsimp only
  repeat' split
  · rename_i active
    have : c ≠ b := fun e => shut (e ▸ active.1)
    simp [this]
  · rfl
  · rfl

/-- A ring that is not ACTIVE stands through the event. -/
theorem settle_shut {u : State} (w : u.device = .ready ∨ u.device = .halting ∧ u.heldBack) :
    shutStands c u (settle u) := by
  rw [settle_of_work w]
  have fence : shutStands c u (fenceStage u) :=
    shutStands_foldl (fun s i => fenceRelease_shutStands i s) _ _
  have pass : shutStands c (fenceStage u) (passStage (fenceStage u)) :=
    shutStands_foldl (fun s k => passComplete_shut k s) _ _
  have delete := deleteSqStage_shut (c := c) (passStage (fenceStage u))
  refine shutStands_trans fence (shutStands_trans pass (shutStands_trans delete
    (shutStands_trans (shutStands_of_eq ?_) (shutStands_foldl (fun s b => beginWrite_shut b s) _ _))))
  simp [fillStage]

end shutStands

/-! ### Discarded members (R171, R174) -/

section discardMembers

variable (ms : List Member) (s : State)

theorem discardMembers_cons (m : Member) : discardMembers (m :: ms) s
    = discardMembers ms (discardMembers [m] s) := rfl

@[simp] theorem discardMembers_cqs : (discardMembers ms s).cqs = s.cqs :=
  foldl_view State.cqs _ (fun s m => by cases m <;> simp) _ _

@[simp] theorem discardMembers_sqs : (discardMembers ms s).sqs = s.sqs :=
  foldl_view State.sqs _ (fun s m => by cases m <;> simp) _ _

@[simp] theorem discardMembers_ax : (discardMembers ms s).ax = s.ax :=
  foldl_view State.ax _ (fun s m => by cases m <;> simp) _ _

theorem discardMembers_slots (i : Fin 16) : (discardMembers ms s).slots.look i
    = if Member.slot i ∈ ms then none else s.slots.look i := by
  induction ms generalizing s with
  | nil => rfl
  | cons m ms ih =>
    rw [discardMembers_cons, ih]
    by_cases h : Member.slot i ∈ ms
    · simp [h]
    · cases m with
      | slot j =>
        by_cases e : i = j
        · subst e; simp [h, discardMembers, freeSlot_slots]
        · simp [h, e, discardMembers, freeSlot_slots]
      | _ => simp [h, discardMembers]

theorem discardMembers_scan {k : Fin 8} (h : ∀ i r, Member.slot i ∈ ms → s.slots.look i = some r →
    r.fromScan k = false) : (discardMembers ms s).scans.look k = s.scans.look k := by
  induction ms generalizing s with
  | nil => rfl
  | cons m ms ih =>
    have one : (discardMembers [m] s).scans.look k = s.scans.look k := by
      cases m with
      | slot j =>
        have := h j
        simp only [List.mem_cons, true_or, true_implies] at this
        simp only [discardMembers, List.foldl_cons, List.foldl_nil]
        unfold freeSlot
        split
        · rfl
        · rename_i r hr
          have := this r hr
          dsimp only
          split
          · rfl
          · rename_i k' _ _ ho
            have : k ≠ k' := fun e => by simp [SlotRec.fromScan, ho, e] at this
            simp [this]
      | _ => rfl
    rw [discardMembers_cons, ih (discardMembers [m] s) fun i r hi hr => ?_, one]
    rw [discardMembers_slots] at hr
    split at hr
    · simp at hr
    · exact h i r (List.mem_cons_of_mem _ hi) hr

end discardMembers

/-! ### DELETE_CQ (R174, R188) -/

section deleteCq

variable {id : Byte} {s : State}

theorem runDeleteCq_id (h : id.toNat = 0 ∨ 7 < id.toNat) :
    runDeleteCq id s = complete .invalidField 1 0 s := by simp [runDeleteCq, h]

variable (h1 : 1 ≤ id.toNat) (h7 : id.toNat ≤ 7)

include h1 h7

theorem runDeleteCq_absent (h : (s.cqs.look (eighth id.toNat)).state = .absent) :
    runDeleteCq id s = complete .noSuchQueue 1 0 s := by
  obtain ⟨good, -⟩ := queueId_of h1 h7
  simp [runDeleteCq, good, h]

variable (h : (s.cqs.look (eighth id.toNat)).state ≠ .absent)

include h

theorem runDeleteCq_used {n : Nat} (hn : cqUser s (eighth id.toNat) = some n) :
    runDeleteCq id s = complete .inUse n 0 s := by
  obtain ⟨good, -⟩ := queueId_of h1 h7
  simp [runDeleteCq, good, h, hn]

theorem runDeleteCq_unused (hn : cqUser s (eighth id.toNat) = none) :
    runDeleteCq id s = complete .success (s.cqs.look (eighth id.toNat)).list.length 0
      (discardMembers (s.cqs.look (eighth id.toNat)).list
        (clearPendingBit (eighth id.toNat) (s.setCq (eighth id.toNat) Cq.gone))) := by
  obtain ⟨good, -⟩ := queueId_of h1 h7
  simp [runDeleteCq, good, h, hn]

end deleteCq

/-- The first of the eight that meets a condition. -/
theorem find_eight {p : Fin 8 → Bool} {n : Fin 8} (h : p n = true) (first : ∀ m, m < n → p m = false) :
    allEight.find? p = some n := by
  have sorted : ∀ n : Fin 8, allEight = allEight.take n.val ++ n :: allEight.drop (n.val + 1)
      ∧ ∀ m, m ∈ allEight.take n.val → m < n := by decide
  obtain ⟨split, below⟩ := sorted n
  rw [List.find?_eq_some_iff_append]
  exact ⟨h, _, _, split, fun m hm => by simp [first m (below m hm)]⟩

theorem find_eight_none {p : Fin 8 → Bool} (h : ∀ n, p n = false) : allEight.find? p = none := by
  simp [h]

/-- Whether SQ `q` is bound to CQ `c` (R188). -/
def State.binds (s : State) (c q : Fin 8) : Prop :=
  (s.sqs.look q).state ≠ .absent ∧ (s.sqs.look q).boundCq = c

section cqUser

variable {s : State} {c : Fin 8}

theorem cqUser_of_sq {q : Fin 8} (h : s.binds c q) (first : ∀ p, p < q → ¬ s.binds c p) :
    cqUser s c = some q.val := by
  obtain ⟨live, bound⟩ := h
  have := find_eight (p := fun q => (s.sqs.look q).state != .absent && (s.sqs.look q).boundCq == c)
    (n := q) (by simp [live, bound]) fun m hm => by
      have := first m hm
      simpa [State.binds] using this
  simp only [cqUser, this]

theorem no_sq_bound (h : ∀ q, ¬ s.binds c q) : (allEight.find? fun q =>
    (s.sqs.look q).state != .absent && (s.sqs.look q).boundCq == c) = none :=
  find_eight_none fun q => by
    have := h q
    simpa [State.binds] using this

theorem cqUser_of_scan (none : ∀ q, ¬ s.binds c q) {k : Fin 8} (h : s.losesTarget c k)
    (first : ∀ j, j < k → ¬ s.losesTarget c j) : cqUser s c = some (8 + k.val) := by
  have := find_eight (p := fun k => ((s.scans.look k).state == .running
      || (s.scans.look k).state == .stopping) && (s.scans.look k).target == some c)
    (n := k) (by simpa [State.losesTarget] using h) fun j hj => by
      have := first j hj
      rw [← Bool.not_eq_true]
      simpa [State.losesTarget] using this
  simp only [cqUser, no_sq_bound none, this, Option.map_some]

theorem cqUser_none (none : ∀ q, ¬ s.binds c q) (rest : ∀ k, ¬ s.losesTarget c k) : cqUser s c = .none := by
  have := find_eight_none (p := fun k => ((s.scans.look k).state == .running
      || (s.scans.look k).state == .stopping) && (s.scans.look k).target == some c) fun j => by
      have := rest j
      rw [← Bool.not_eq_true]
      simpa [State.losesTarget] using this
  simp only [cqUser, no_sq_bound none, this, Option.map_none]

end cqUser

/-- The event of a DELETE_CQ that passes its checks. -/
theorem deleteCq_succeeds {index n : Nat} {s v u : State} {cid : BitVec 16} {cmd : AdminCmd} {c : Fin 8}
    (take : s.mayTake index) (hc : c ≠ 0)
    (held : s.device = .ready ∨ ∃ i r, s.slots.look i = some r ∧ r.state ≠ .posting
      ∧ r.state ≠ .fenced ∧ Member.slot i ∉ (s.cqs.look c).list)
    (hv : v = discardMembers (s.cqs.look c).list
      (clearPendingBit c ((commandTaken cid cmd index s).setCq c Cq.gone)))
    (hu : u = complete .success n 0 v) :
    answered (plainDone cid .success n 0) s (settle u) ∧ headTaken index s (settle u)
      ∧ (settle u).cqs.look c = Cq.gone
      ∧ (settle u).aside = { s with intPending := (settle u).intPending }.aside
      ∧ (∀ n, n < 8 → (settle u).intPending.getLsbD n
          = (s.intPending.getLsbD n && decide (n ≠ c.val)))
      ∧ (∀ i r, s.slots.look i = some r → Member.slot i ∉ (s.cqs.look c).list → r.state ≠ .fenced →
          (settle u).slots.look i = some r)
      ∧ (∀ i, Member.slot i ∈ (s.cqs.look c).list → freed i s (settle u))
      ∧ (∀ k, (∀ i r, Member.slot i ∈ (s.cqs.look c).list → s.slots.look i = some r →
            r.fromScan k = false) → scanStands (s.scans.look k) ((settle u).scans.look k))
      ∧ sqsStand [0] s (settle u) ∧ cqsGrow [c] s (settle u) := by
  have hax : v.ax = .executing { position := index, commandId := cid, cmd := cmd, work := .nothing } := by
    rw [hv, discardMembers_ax]; rfl
  have hcqs : v.cqs = s.cqs.put c Cq.gone := by rw [hv, discardMembers_cqs]; rfl
  have other : ∀ b, b ≠ c → v.cqs.look b = s.cqs.look b := fun b hb => by
    rw [hcqs, Table.look_put_ne _ _ _ _ hb]
  have hslots : ∀ i, u.slots.look i = if Member.slot i ∈ (s.cqs.look c).list then none
      else s.slots.look i := fun i => by
    rw [hu, complete_slots, hv, discardMembers_slots]; rfl
  have hscans : ∀ k, (∀ i r, Member.slot i ∈ (s.cqs.look c).list → s.slots.look i = some r →
      r.fromScan k = false) → u.scans.look k = s.scans.look k := fun k h => by
    rw [hu, complete_scans, hv]
    exact discardMembers_scan _ (clearPendingBit c ((commandTaken cid cmd index s).setCq c Cq.gone)) h
  have hsqs : u.sqs = s.sqs.put 0 { s.sqs.look 0 with head := nextIndex index (s.sqs.look 0).size } := by
    rw [hu, complete_sqs, hv, discardMembers_sqs]; rfl
  have hp : v.intPending
      = (clearPendingBit c ((commandTaken cid cmd index s).setCq c Cq.gone)).intPending := by
    rw [hv]; exact aside_intPending (discardMembers_aside _ _)
  have hua : u.aside = { s with intPending := v.intPending }.aside := by
    rw [hu, complete_aside, hp, hv, discardMembers_aside]; rfl
  have hd : u.device = s.device := (aside_device hua).trans rfl
  have lists : ∀ i b, listings i u b ≤ listings i s b := fun i b => by
    have one := congrFun (completeWith_listings i .success n 0 .empty 0 v) b
    rw [hu]
    refine one.trans_le ?_
    by_cases e : b = c
    · rw [listings, hcqs, e, Table.look_put_same]; simp [Cq.gone]
    · rw [listings, other b e, listings]
  obtain ⟨work, -, -, hsq, hcq⟩ := take
  have w : u.device = .ready ∨ u.device = .halting ∧ u.heldBack := by
    rw [hd]
    obtain ⟨-, hr | ⟨hh, -⟩⟩ := work
    · exact .inl hr
    · rcases held with hr | ⟨i, r, hi, hpost, hf, hm⟩
      · exact .inl hr
      · exact .inr ⟨hh, i, r, by rw [hslots, if_neg hm, hi], hpost, hf⟩
  have aside := (settle_aside_work w).trans hua
  have pending : (settle u).intPending = v.intPending := (aside_intPending aside).trans rfl
  have gone : u.cqs.look c = Cq.gone := by
    rw [hu, complete, completeWith_shut _ _ _ _ _ v (by rw [hcqs, Table.look_put_same]; decide), hcqs,
      Table.look_put_same]
  refine ⟨settle_completed_answered w hu hax (other 0 (Ne.symm hc)) hcq,
    settle_headTaken w hsq (by rw [hsqs, Table.look_put_same]), ?_, ?_, fun n hn => ?_,
    fun i r hi hm hf => ?_, fun i hm => freed_of_free w (by rw [hslots, if_pos hm]) (lists i),
    fun k hk => ?_, ?_, settle_completed_grow w hu fun b hb => other b (by simpa using hb)⟩
  · rw [settle_shut w (by rw [gone]; decide), gone]
  · rw [pending]; exact aside
  · rw [pending, hp]
    exact clearPendingBit_getLsbD c _ hn
  · exact settle_slotsStand w i r (by simp) (by rw [hslots, if_neg hm, hi]) hf
  · rw [← hscans k hk]
    exact settle_scansStand w k (by simp)
  · exact sqsStand_via (fun q hq => by rw [hsqs, Table.look_put_ne _ _ _ _ (by simpa using hq)])
      (settle_sqsStand w)

theorem commandTaken_binds (cid : BitVec 16) (cmd : AdminCmd) (index : Nat) (s : State) (c q : Fin 8) :
    (commandTaken cid cmd index s).binds c q ↔ s.binds c q := by
  unfold State.binds
  rw [commandTaken_sqs]
  by_cases h : q = 0
  · rw [h, Table.look_put_same]
  · rw [Table.look_put_ne _ _ _ _ h]

/-- Settles O45. -/
theorem deleteCq : Obligations.DeleteCq := by
  unfold Obligations.DeleteCq
  intro cid id c index s take hc
  subst hc
  obtain ⟨v, hv⟩ : ∃ v, v = commandTaken cid (.deleteCq id) index s := ⟨_, rfl⟩
  have ran : exec (.deleteCq cid id) s = .next (settle (runDeleteCq id v)) :=
    (act_takes take cid _ true).trans (by rw [hv]; rfl)
  have ends : ∀ {status : AdminStatus} {aux : Nat} {value : Int},
      runDeleteCq id v = complete status aux value v →
      onlyAnswered index (plainDone cid status aux value) s (settle (runDeleteCq id v)) := fun hr => by
    rw [hr, hv]
    exact completeWith_onlyAnswered take ..
  have cqs : v.cqs = s.cqs := by rw [hv]; rfl
  have binds : ∀ c q, v.binds c q ↔ s.binds c q := fun c q => by
    rw [hv]; exact commandTaken_binds ..
  have runs : ∀ c k, v.losesTarget c k ↔ s.losesTarget c k := fun c k => by rw [hv]; exact Iff.rfl
  refine ⟨_, ran, fun h => ends (runDeleteCq_id h),
    fun h1 h7 h => ends (runDeleteCq_absent h1 h7 (by rwa [cqs])), fun h1 h7 h =>
    ⟨fun q live bound first => ends (runDeleteCq_used h1 h7 (by rwa [cqs])
        (cqUser_of_sq ((binds _ _).2 ⟨live, bound⟩) fun p hp => (binds _ _).not.2 (first p hp))),
      fun free => ⟨fun k run first => ends (runDeleteCq_used h1 h7 (by rwa [cqs])
        (cqUser_of_scan (fun q => (binds _ _).not.2 (free q)) ((runs _ _).2 run)
          fun j hj => (runs _ _).not.2 (first j hj))), fun idle held => ?_⟩⟩⟩
  have hr := runDeleteCq_unused (s := v) h1 h7 (by rwa [cqs])
    (cqUser_none (fun q => (binds _ _).not.2 (free q)) fun k => (runs _ _).not.2 (idle k))
  rw [hr, cqs, hv]
  exact deleteCq_succeeds take (queueId_of h1 h7).2 held rfl rfl

end Sys2Proof.Machine
end

section
/-! The ends of record writes (chapter 9). -/

namespace Sys2Proof.Machine

-- Parallel elaboration of the one text reserves more memory than the check allows.
set_option Elab.async false

/-! ### RECORD_WRITE_DONE (R170, R175) -/

section memberWritten

variable (m : Member) (s : State)

@[simp] theorem memberWritten_aside : (memberWritten m s).aside = s.aside := by cases m <;> simp [memberWritten] <;> rfl

@[simp] theorem memberWritten_cqs : (memberWritten m s).cqs = s.cqs := by cases m <;> simp [memberWritten]

@[simp] theorem memberWritten_sqs : (memberWritten m s).sqs = s.sqs := by cases m <;> simp [memberWritten]

theorem memberWritten_slots : (memberWritten m s).slots = (discardMembers [m] s).slots := by
  cases m <;> rfl

theorem memberWritten_scans : (memberWritten m s).scans = (discardMembers [m] s).scans := by
  cases m <;> rfl

end memberWritten

section coalesce

variable (c : Fin 8) (s : State)

theorem coalesce_eq : coalesce c s =
    if (s.cqs.look c).threshold ≤ (s.cqs.look c).unsignalled + 1 then
      setPendingBit c (s.setCq c { s.cqs.look c with unsignalled := 0, timer := none })
    else s.setCq c { s.cqs.look c with
      unsignalled := (s.cqs.look c).unsignalled + 1
      timer := if (s.cqs.look c).timerSetting ≠ 0 ∧ (s.cqs.look c).timer = none then
        some (s.cqs.look c).timerSetting else (s.cqs.look c).timer } := rfl

/-- Coalescing touches the unsignalled count, the timer and the INT_PENDING bits. -/
theorem coalesce_keeps : coalesce c s = { s with
    cqs := (coalesce c s).cqs, intPending := (coalesce c s).intPending } := by
  rw [coalesce_eq]
  split <;> rfl

theorem coalesce_other {b : Fin 8} (h : b ≠ c) : (coalesce c s).cqs.look b = s.cqs.look b := by
  rw [coalesce_eq]
  split <;> simp [setPendingBit, h]

theorem coalesce_ring : ∃ n timer, (coalesce c s).cqs.look c
    = { s.cqs.look c with unsignalled := n, timer := timer } := by
  rw [coalesce_eq]
  split
  · exact ⟨0, none, by simp [setPendingBit]⟩
  · exact ⟨_, _, Table.look_put_same _ _ _⟩

theorem coalesce_reached (h : (s.cqs.look c).threshold ≤ (s.cqs.look c).unsignalled + 1) :
    ((coalesce c s).cqs.look c).unsignalled = 0 ∧ ((coalesce c s).cqs.look c).timer = none
      ∧ ∀ n, n < 8 →
        (coalesce c s).intPending.getLsbD n = (s.intPending.getLsbD n || decide (n = c.val)) := by
  rw [coalesce_eq, if_pos h]
  exact ⟨by simp [setPendingBit], by simp [setPendingBit], fun n hn => setPendingBit_getLsbD c _ hn⟩

theorem coalesce_below (h : (s.cqs.look c).unsignalled + 1 < (s.cqs.look c).threshold) :
    ((coalesce c s).cqs.look c).unsignalled = (s.cqs.look c).unsignalled + 1
      ∧ (coalesce c s).intPending = s.intPending
      ∧ ((coalesce c s).cqs.look c).timer
        = if (s.cqs.look c).timerSetting ≠ 0 ∧ (s.cqs.look c).timer = none then
            some (s.cqs.look c).timerSetting else (s.cqs.look c).timer := by
  rw [coalesce_eq, if_neg (Nat.not_le.2 h)]
  exact ⟨by simp, rfl, by simp⟩

end coalesce

theorem aside_withPending {s v : State} (h : v.aside = s.aside) (p : Byte) :
    { v with intPending := p }.aside = { s with intPending := p }.aside :=
  congrArg (fun a => (a.1, a.2.1, a.2.2.1, a.2.2.2.1, p, a.2.2.2.2.2)) h

/-- What a ring that has at most grown keeps. -/
theorem cqGrows_keeps {d e : Cq} (h : cqGrows d e) : e.tail = d.tail ∧ e.phase = d.phase
    ∧ e.head = d.head ∧ e.state = d.state ∧ e.size = d.size ∧ e.unsignalled = d.unsignalled
    ∧ e.timer = d.timer ∧ d.list <+: e.list := by
  obtain ⟨same, grown, -⟩ := h
  rw [same]
  exact ⟨rfl, rfl, rfl, rfl, rfl, rfl, rfl, grown⟩

theorem writeDone_of {c : Fin 8} {s : State} {d : Cq} {m : Member} {rest : List Member} {x : Record}
    (hd : s.cqs.look c = d) (hl : d.list = m :: rest) (hw : d.writing = some x) :
    writeDone c s = coalesce c (memberWritten m (s.setCq c (d.written rest))) := by
  simp [writeDone, hd, hl, hw]

theorem writeDone_idle {c : Fin 8} {s : State} (h : (s.cqs.look c).writing = none) :
    writeDone c s = s := by
  unfold writeDone
  dsimp only
  split
  · rename_i hw
    rw [h] at hw
    simp at hw
  · rfl

/-- What the event of a completed write leaves of the state. -/
theorem writeDone_effect {c : Fin 8} {s u : State} {d : Cq} {m : Member} {rest : List Member}
    (hu : u = coalesce c (memberWritten m (s.setCq c (d.written rest)))) :
    u.aside = { s with intPending := u.intPending }.aside ∧ u.sqs = s.sqs
      ∧ (∀ i, u.slots.look i = if m = .slot i then none else s.slots.look i)
      ∧ (∀ k, (∀ i r, m = .slot i → s.slots.look i = some r → r.fromScan k = false) →
          u.scans.look k = s.scans.look k)
      ∧ (∀ b, b ≠ c → u.cqs.look b = s.cqs.look b)
      ∧ (∃ n timer, u.cqs.look c = { d.written rest with unsignalled := n, timer := timer })
      ∧ (∀ a, m = .admin a → u.ax = .idle) := by
  obtain ⟨v, hv⟩ : ∃ v, v = memberWritten m (s.setCq c (d.written rest)) := ⟨_, rfl⟩
  have hcqs : v.cqs = s.cqs.put c (d.written rest) := by rw [hv, memberWritten_cqs]; rfl
  have ring : v.cqs.look c = d.written rest := by rw [hcqs, Table.look_put_same]
  have keeps := coalesce_keeps c v
  have other := fun b => coalesce_other (b := b) c v
  have own := coalesce_ring c v
  rw [← hv] at hu
  rw [← hu] at keeps other own
  refine ⟨?_, ?_, fun i => ?_, fun k h => ?_, fun b hb => ?_, ?_, fun a ha => ?_⟩
  · have aside : v.aside = s.aside := by rw [hv, memberWritten_aside]; rfl
    calc u.aside = { v with intPending := u.intPending }.aside := by rw [keeps]; rfl
      _ = _ := aside_withPending aside _
  · rw [keeps, hv]
    exact memberWritten_sqs m _
  · have : u.slots = v.slots := by rw [keeps]
    rw [this, hv, memberWritten_slots, discardMembers_slots]
    simp [eq_comm]
  · have : u.scans = v.scans := by rw [keeps]
    rw [this, hv, memberWritten_scans]
    exact discardMembers_scan [m] (s.setCq c _) fun i r hi hr => h i r (by simpa [eq_comm] using hi) hr
  · rw [other b hb, hcqs, Table.look_put_ne _ _ _ _ hb]
  · rwa [ring] at own
  · have : u.ax = v.ax := by rw [keeps]
    rw [this, hv, ha]
    rfl

/-- Settles O37. -/
theorem recordWriteCompletes : Obligations.RecordWriteCompletes := by
  unfold Obligations.RecordWriteCompletes
  intro c m rest x d s reset held hd hl
  refine ⟨fun hw => ?_, fun hw => ?_⟩
  · obtain ⟨u, hu⟩ : ∃ u, u = writeDone c s := ⟨_, rfl⟩
    have hf := writeDone_of hd hl hw
    obtain ⟨hua, hsqs, hslots, hscans, hcqs, ⟨n, timer, own⟩, hax⟩ := writeDone_effect (hu.trans hf)
    have hdev : u.device = s.device := (aside_device hua).trans rfl
    have w : u.device = .ready ∨ u.device = .halting ∧ u.heldBack := by
      rw [hdev]
      exact held.imp_right fun ⟨hh, i, r, hi, hp, hfe, hm⟩ =>
        ⟨hh, i, r, by rw [hslots, if_neg hm, hi], hp, hfe⟩
    have aside := (settle_aside_work w).trans hua
    have pending : (settle u).intPending = u.intPending := (aside_intPending aside).trans rfl
    have grown := settle_cqsGrow w c (by simp)
    obtain ⟨tail, phase, head, state, size, unsig, timer', list⟩ := cqGrows_keeps grown
    rw [own] at tail phase head state size list
    refine ⟨_, act_to reset hu.symm, ?_, tail, phase, list, head, state, size, fun i hi y hy => ?_,
      fun i hi => slotsStand_via (fun j hj => ?_) (settle_slotsStand w),
      fun hm => slotsStand_via (fun j _ => by rw [hslots, if_neg (hm j)]) (settle_slotsStand w),
      fun k hk => ?_, sqsStand_via (fun q _ => by rw [hsqs]) (settle_sqsStand w),
      cqsGrow_via (fun b hb => hcqs b (by simpa using hb)) (settle_cqsGrow w),
      fun a ha => settle_idle w (hax a ha), fun reached => ?_, fun below => ?_⟩
    · rw [pending]; exact aside
    · have free : u.slots.look i = none := by rw [hslots, if_pos hi]
      obtain ⟨-, -, -, -, -, -, -, -, -, -, -, new⟩ := settle_new w (fenceStage_free i u free) hy
      exact new.imp (·.1) (·.1)
    · have : m ≠ .slot j := fun e => by
        rw [hi] at e
        cases e
        simp at hj
      rw [hslots, if_neg this]
    · rw [← hscans k hk]
      exact settle_scansStand w k (by simp)
    · obtain ⟨h1, h2, h3⟩ := coalesce_reached c (memberWritten m (s.setCq c (d.written rest)))
        (by simpa [Cq.written] using reached)
      rw [← hf, ← hu] at h1 h2 h3
      refine ⟨unsig.trans h1, timer'.trans h2, fun n hn => ?_⟩
      rw [pending, h3 n hn]
      exact congrArg (fun p : Byte => (p.getLsbD n || _)) (aside_intPending (memberWritten_aside m _))
    · obtain ⟨h1, h2, h3⟩ := coalesce_below c (memberWritten m (s.setCq c (d.written rest)))
        (by simpa [Cq.written] using below)
      rw [← hf, ← hu] at h1 h2 h3
      refine ⟨unsig.trans (h1.trans (by simp [Cq.written])),
        pending.trans (h2.trans (aside_intPending (memberWritten_aside m _))),
        timer'.trans (h3.trans (by simp [Cq.written]))⟩
  · have work : s.atWork := ⟨reset, held.imp_right fun ⟨hh, i, r, hi, hp, hfe, _⟩ =>
      ⟨hh, i, r, hi, hp, hfe⟩⟩
    obtain ⟨ran, -, aside, slots, scans, sqs, cqs⟩ := act_bare (f := writeDone c) work
      (writeDone_idle (by rw [hd, hw])) rfl rfl rfl rfl (cqsGrow_of_eq rfl)
    exact ⟨_, ran, aside, slots, scans, sqs, cqs⟩

end Sys2Proof.Machine
end

section
/-! A completion ring faulted by a write error, and the scans that lose their target (chapters 8 and
9). -/

namespace Sys2Proof.Machine

-- Parallel elaboration of the one text reserves more memory than the check allows.
set_option Elab.async false

/-! ### Members that stay in CQ0's list -/

/-- An event of the kind and object stands in the list. -/
def Cq.tells (d : Cq) (kind : EventKind) (object : Nat) : Prop :=
  ∃ e, Member.event e ∈ d.list ∧ e.kind = kind ∧ e.object = object

theorem withEvent_tells (d : Cq) (kind : EventKind) (object : Nat) (value : Int) :
    (d.withEvent kind object value).tells kind object := by
  rcases withEvent_list d kind object value with ⟨b, e, a, -, hk, ho, hl⟩ | ⟨-, hl⟩
  · exact ⟨{ e with mergeCount := min 255 (e.mergeCount + 1) }, by simp [hl], hk, ho⟩
  · exact ⟨{ kind := kind, object := object, mergeCount := 1, value := value }, by simp [hl], rfl, rfl⟩

theorem Cq.tells.withEvent {d : Cq} {kind : EventKind} {object : Nat} (h : d.tells kind object)
    (kind' : EventKind) (object' : Nat) (value : Int) :
    (d.withEvent kind' object' value).tells kind object := by
  obtain ⟨x, hx, hk, ho⟩ := h
  rcases withEvent_list d kind' object' value with ⟨b, e, a, hw, hk', ho', hl⟩ | ⟨-, hl⟩
  · rw [← inWrite_append_waiting d, hw] at hx
    by_cases same : x = e
    · subst same
      exact ⟨{ x with mergeCount := min 255 (x.mergeCount + 1) }, by simp [hl], hk, ho⟩
    · refine ⟨x, ?_, hk, ho⟩
      simp only [List.mem_append, List.mem_cons, Member.event.injEq, same, false_or] at hx
      simp only [hl, List.mem_append, List.mem_cons]
      exact hx.imp_right (Or.imp_right .inr)
  · exact ⟨x, by simp [hl, hx], hk, ho⟩

theorem withEvent_admin {d : Cq} {a : AdminDone} (h : Member.admin a ∈ d.list) (kind : EventKind)
    (object : Nat) (value : Int) : Member.admin a ∈ (d.withEvent kind object value).list := by
  rcases withEvent_list d kind object value with ⟨b, e, after, hw, -, -, hl⟩ | ⟨-, hl⟩
  · rw [← inWrite_append_waiting d, hw] at h
    simpa [hl] using h
  · simp [hl, h]

/-! ### One scan loses its target (R153) -/

/-- CQ0's ring after scan `k` has lost its target CQ `c`: its event, and the completion of the SCAN_STOP
that waits for it. -/
def State.lostRing (s : State) (c : Fin 8) (cid : BitVec 16) (b : Cq) (k : Fin 8) : Cq :=
  { b.withEvent .scanTargetLost k.val c.val with
    list := (b.withEvent .scanTargetLost k.val c.val).list
      ++ if s.axWork = .stopping k then
          [.admin (plainDone cid .success (s.scans.look k).overruns (s.scans.look k).passNumber)]
        else [] }

/-- Scan `k` as it stands once its target is lost. -/
def Scan.lostNow (k : Scan) : Scan := { k.loadedNow with nextTemplate := k.count }

theorem orphanSlots_slots (k : Fin 8) (s : State) (i : Fin 16) : (orphanSlots k s).slots.look i
    = (s.slots.look i).map fun r => if r.fromScan k then { r with orphaned := true } else r := by
  simp [orphanSlots]

theorem executing_of_axWork {s : State} {work : AxWork} (h : s.axWork = work) (hn : work ≠ .nothing) :
    ∃ ctx, s.ax = .executing ctx ∧ ctx.work = work := by
  unfold State.axWork at h
  split at h
  · exact ⟨_, by assumption, h⟩
  · exact absurd h.symm hn

theorem completeWith_ring_ne {c : Fin 8} (hc : c ≠ 0) (status : AdminStatus) (aux : Nat) (value : Int)
    (sc : ScanState) (pass : Nat) (s : State) :
    (completeWith status aux value sc pass s).cqs.look c = s.cqs.look c := by
  unfold completeWith joinList
  dsimp only
  repeat' split
  · simp [hc]
  · rfl
  · rfl

section loseTarget

variable {s : State} {c k : Fin 8}

/-- The state in which scan `k` has lost its target, before the SCAN_STOP that waits for it ends. -/
def State.scanLost (s : State) (c k : Fin 8) : State :=
  raiseEvent .scanTargetLost k.val c.val (orphanSlots k (s.setScan k (s.scans.look k).lostNow))

theorem scanLost_ax : (s.scanLost c k).ax = s.ax := raiseEvent_ax ..

theorem scanLost_axWork : (s.scanLost c k).axWork = s.axWork := by
  simp only [State.axWork, scanLost_ax]

theorem scanLost_cqs (hcq : (s.cqs.look 0).state = .active) : (s.scanLost c k).cqs
    = s.cqs.put 0 ((s.cqs.look 0).withEvent .scanTargetLost k.val c.val) :=
  raiseEvent_cqs _ _ _ (s := orphanSlots k (s.setScan k (s.scans.look k).lostNow)) hcq

theorem scanLost_scans : (s.scanLost c k).scans = s.scans.put k (s.scans.look k).lostNow :=
  raiseEvent_scans ..

variable (h : s.losesTarget c k)

include h

theorem loseTarget_eq : loseTarget c k s = completeStop k (s.scanLost c k) := loseTarget_of h

theorem loseTarget_scans : (loseTarget c k s).scans = s.scans.put k (s.scans.look k).lostNow := by
  rw [loseTarget_eq h, completeStop_scans, scanLost_scans]

theorem loseTarget_slots (i : Fin 16) : (loseTarget c k s).slots.look i
    = (s.slots.look i).map fun r => if r.fromScan k then { r with orphaned := true } else r := by
  rw [loseTarget_eq h, completeStop_slots, State.scanLost, raiseEvent_slots, orphanSlots_slots]
  rfl

theorem loseTarget_sqs : (loseTarget c k s).sqs = s.sqs := by
  rw [loseTarget_eq h, completeStop_sqs, State.scanLost, raiseEvent_sqs]
  rfl

theorem loseTarget_ax (hw : s.axWork ≠ .stopping k) : (loseTarget c k s).ax = s.ax := by
  rw [loseTarget_eq h, completeStop, if_neg (by rwa [scanLost_axWork]), scanLost_ax]

theorem loseTarget_posting (hw : s.axWork = .stopping k) : (loseTarget c k s).ax.isPosting = true := by
  obtain ⟨ctx, hax, -⟩ := executing_of_axWork hw (by simp)
  rw [loseTarget_eq h, completeStop, if_pos (by rwa [scanLost_axWork])]
  exact completeWith_isPosting (scanLost_ax.trans hax) ..

theorem loseTarget_ring_ne (hcq : (s.cqs.look 0).state = .active) {b : Fin 8} (hb : b ≠ 0) :
    (loseTarget c k s).cqs.look b = s.cqs.look b := by
  have one : (s.scanLost c k).cqs.look b = s.cqs.look b := by
    rw [scanLost_cqs hcq, Table.look_put_ne _ _ _ _ hb]
  rw [loseTarget_eq h, completeStop]
  split
  · rw [complete, completeWith_ring_ne hb, one]
  · exact one

theorem loseTarget_ring (hcq : (s.cqs.look 0).state = .active) {cid : BitVec 16}
    (hcid : ∀ ctx, s.ax = .executing ctx → ctx.commandId = cid) :
    (loseTarget c k s).cqs.look 0 = s.lostRing c cid (s.cqs.look 0) k := by
  have ring : (s.scanLost c k).cqs.look 0
      = (s.cqs.look 0).withEvent .scanTargetLost k.val c.val := by
    rw [scanLost_cqs hcq, Table.look_put_same]
  rw [loseTarget_eq h, completeStop, State.lostRing]
  by_cases hw : s.axWork = .stopping k
  · obtain ⟨ctx, hax, -⟩ := executing_of_axWork hw (by simp)
    have active : ((s.scanLost c k).cqs.look 0).state = .active := by
      rw [ring, withEvent_eq]; exact hcq
    rw [if_pos (scanLost_axWork.trans hw), if_pos hw, complete,
      completeWith_cq0 (scanLost_ax.trans hax) active, ring, scanLost_scans, Table.look_put_same,
      hcid ctx hax]
    rfl
  · rw [if_neg (by rwa [scanLost_axWork]), if_neg hw, ring, List.append_nil]

end loseTarget

theorem lostRing_state (s : State) (c : Fin 8) (cid : BitVec 16) (b : Cq) (k : Fin 8) :
    (s.lostRing c cid b k).state = b.state := by
  rw [State.lostRing, withEvent_eq]

theorem Cq.tells.lostRing {b : Cq} {kind : EventKind} {object : Nat} (h : b.tells kind object)
    (s : State) (c : Fin 8) (cid : BitVec 16) (k : Fin 8) :
    (s.lostRing c cid b k).tells kind object := by
  obtain ⟨e, he, hk, ho⟩ := h.withEvent .scanTargetLost k.val c.val
  exact ⟨e, List.mem_append_left _ he, hk, ho⟩

theorem Cq.tells.lostRings {b : Cq} {kind : EventKind} {object : Nat} (h : b.tells kind object)
    (s : State) (c : Fin 8) (cid : BitVec 16) (l : List (Fin 8)) :
    (l.foldl (s.lostRing c cid) b).tells kind object := by
  induction l generalizing b with
  | nil => exact h
  | cons k l ih => exact ih (h.lostRing s c cid k)

/-- Each scan of the list leaves its event in the ring, and the completion that waits for it. -/
theorem lostRings_tells {l : List (Fin 8)} {k : Fin 8} (hk : k ∈ l) (s : State) (c : Fin 8)
    (cid : BitVec 16) (b : Cq) :
    (l.foldl (s.lostRing c cid) b).tells .scanTargetLost k.val := by
  induction l generalizing b with
  | nil => simp at hk
  | cons j l ih =>
    rcases List.mem_cons.1 hk with rfl | hk
    · obtain ⟨e, he, hkind, ho⟩ := withEvent_tells b .scanTargetLost k.val c.val
      exact Cq.tells.lostRings (b := s.lostRing c cid b k)
        ⟨e, List.mem_append_left _ he, hkind, ho⟩ s c cid l
    · exact ih hk _

theorem lostRings_admin_stays {a : AdminDone} {b : Cq} (h : Member.admin a ∈ b.list) (s : State)
    (c : Fin 8) (cid : BitVec 16) (l : List (Fin 8)) :
    Member.admin a ∈ (l.foldl (s.lostRing c cid) b).list := by
  induction l generalizing b with
  | nil => exact h
  | cons k l ih => exact ih (List.mem_append_left _ (withEvent_admin h ..))

theorem lostRings_admin {l : List (Fin 8)} {k : Fin 8} (hk : k ∈ l) {s : State}
    (hw : s.axWork = .stopping k) (c : Fin 8) (cid : BitVec 16) (b : Cq) :
    Member.admin (plainDone cid .success (s.scans.look k).overruns (s.scans.look k).passNumber)
      ∈ (l.foldl (s.lostRing c cid) b).list := by
  induction l generalizing b with
  | nil => simp at hk
  | cons j l ih =>
    rcases List.mem_cons.1 hk with rfl | hk
    · exact lostRings_admin_stays (b := s.lostRing c cid b k) (by simp [State.lostRing, hw]) s c cid l
    · exact ih hk _

/-! ### Every scan of the ring (R153, R171) -/

/-- What the loss of CQ `c` by the scans `lost` of a list without repetition leaves. -/
structure State.scansLost (s t : State) (c : Fin 8) (lost : Fin 8 → Bool) (l : List (Fin 8)) : Prop where
  ring : ∀ cid, (∀ ctx, s.ax = .executing ctx → ctx.commandId = cid) →
    t.cqs.look 0 = (l.filter lost).foldl (s.lostRing c cid) (s.cqs.look 0)
  rings : ∀ b, b ≠ 0 → t.cqs.look b = s.cqs.look b
  sqs : t.sqs = s.sqs
  scans : ∀ k, t.scans.look k = if k ∈ l ∧ lost k = true then (s.scans.look k).lostNow
    else s.scans.look k
  slots : ∀ i, t.slots.look i = (s.slots.look i).map fun r =>
    if (l.any fun k => lost k && r.fromScan k) then { r with orphaned := true } else r
  posting : ∀ k ∈ l, lost k = true → s.axWork = .stopping k → t.ax.isPosting = true
  stands : (∀ k ∈ l, lost k = true → s.axWork ≠ .stopping k) → t.ax = s.ax

/-- What stands for the scans to come when scan `k` has lost its target. -/
theorem loseTarget_later {s : State} {c k j : Fin 8} (h : s.losesTarget c k) (hj : j ≠ k) :
    (loseTarget c k s).scans.look j = s.scans.look j
      ∧ ((loseTarget c k s).axWork = .stopping j ↔ s.axWork = .stopping j)
      ∧ ((loseTarget c k s).losesTarget c j ↔ s.losesTarget c j) := by
  have scan : (loseTarget c k s).scans.look j = s.scans.look j := by
    rw [loseTarget_scans h, Table.look_put_ne _ _ _ _ hj]
  refine ⟨scan, ?_, by rw [State.losesTarget, scan]; exact Iff.rfl⟩
  by_cases hw : s.axWork = .stopping k
  · rw [posting_work (loseTarget_posting h hw), hw]
    simp [Ne.symm hj]
  · simp only [State.axWork, loseTarget_ax h hw]

/-- The COMMAND_ID of the command in hand, if there is one. -/
theorem commandId_inHand (s : State) :
    ∃ cid : BitVec 16, ∀ ctx, s.ax = .executing ctx → ctx.commandId = cid := by
  cases h : s.ax with
  | executing ctx => exact ⟨ctx.commandId, fun _ e => by cases e; rfl⟩
  | _ => exact ⟨0, fun _ e => by cases e⟩

theorem loseTargets_lost {c : Fin 8} {lost : Fin 8 → Bool} {l : List (Fin 8)} (nodup : l.Nodup)
    {s : State} (hcq : (s.cqs.look 0).state = .active)
    (hlost : ∀ k ∈ l, (lost k = true ↔ s.losesTarget c k)) :
    s.scansLost (l.foldl (fun s k => loseTarget c k s) s) c lost l := by
  induction l generalizing s with
  | nil => exact ⟨fun _ _ => rfl, fun _ _ => rfl, rfl, fun _ => by simp, fun _ => by simp, by simp,
      fun _ => rfl⟩
  | cons k l ih =>
    obtain ⟨new, nodup⟩ := List.nodup_cons.1 nodup
    rw [List.foldl_cons]
    by_cases hk : lost k = true
    · have h := (hlost k (by simp)).1 hk
      have later : ∀ j ∈ l, j ≠ k := fun j hj e => new (e ▸ hj)
      have active : ((loseTarget c k s).cqs.look 0).state = .active := by
        obtain ⟨cid, hcid⟩ := commandId_inHand s
        rw [loseTarget_ring h hcq hcid, lostRing_state, hcq]
      have rest := ih nodup active fun j hj => (hlost j (List.mem_cons_of_mem _ hj)).trans
        (loseTarget_later h (later j hj)).2.2.symm
      generalize l.foldl (fun s k => loseTarget c k s) (loseTarget c k s) = t at *
      refine ⟨fun cid hcid => ?_, fun b hb => ?_, ?_, fun j => ?_, fun i => ?_, fun j hj hl hw => ?_,
        fun none => ?_⟩
      · have hcid' : ∀ ctx, (loseTarget c k s).ax = .executing ctx → ctx.commandId = cid := by
          intro ctx hax
          by_cases hw : s.axWork = .stopping k
          · have := loseTarget_posting h hw
            simp [hax, Ax.isPosting] at this
          · exact hcid ctx (by rwa [loseTarget_ax h hw] at hax)
        rw [rest.ring cid hcid', loseTarget_ring h hcq hcid, List.filter_cons_of_pos hk,
          List.foldl_cons]
        refine List.foldl_ext _ _ _ fun b j hj => ?_
        obtain ⟨scan, work, -⟩ := loseTarget_later h (later j (List.mem_filter.1 hj).1)
        simp only [State.lostRing, scan, work]
      · rw [rest.rings b hb, loseTarget_ring_ne h hcq hb]
      · rw [rest.sqs, loseTarget_sqs h]
      · rw [rest.scans]
        by_cases e : j = k
        · subst e
          simp [new, hk, loseTarget_scans h]
        · simp only [(loseTarget_later h e).1, List.mem_cons, e, false_or]
      · rw [rest.slots, loseTarget_slots h, Option.map_map]
        refine Option.map_congr fun r _ => ?_
        have origin : ∀ j, ({ r with orphaned := true } : SlotRec).fromScan j = r.fromScan j :=
          fun _ => rfl
        rcases e : r.fromScan k <;> simp [hk, e, origin]
      · rcases List.mem_cons.1 hj with rfl | hj
        · rw [rest.stands fun m hm _ hw' => ?_]
          · exact loseTarget_posting h hw
          · rw [posting_work (loseTarget_posting h hw)] at hw'
            cases hw'
        · exact rest.posting j hj hl ((loseTarget_later h (later j hj)).2.1.2 hw)
      · rw [rest.stands fun m hm hl => (loseTarget_later h (later m hm)).2.1.not.2
          (none m (List.mem_cons_of_mem _ hm) hl), loseTarget_ax h (none k (by simp) hk)]
    · have rest := ih nodup hcq fun j hj => hlost j (List.mem_cons_of_mem _ hj)
      rw [loseTarget_of_not ((hlost k (by simp)).not.1 hk)]
      refine ⟨fun cid hcid => ?_, rest.rings, rest.sqs, fun j => ?_, fun i => ?_,
        fun j hj hl => ?_, fun none => rest.stands fun m hm => none m (List.mem_cons_of_mem _ hm)⟩
      · rw [rest.ring cid hcid, List.filter_cons_of_neg hk]
      · rw [rest.scans]
        by_cases e : j = k
        · subst e; simp [hk]
        · simp [e]
      · rw [rest.slots]
        simp [hk]
      · rcases List.mem_cons.1 hj with rfl | hj
        · exact absurd hl hk
        · exact rest.posting j hj hl

theorem loseTarget_listings (i : Fin 16) (c k : Fin 8) (s : State) :
    listings i (loseTarget c k s) = listings i s := by
  by_cases h : s.losesTarget c k
  · rw [loseTarget_eq h, completeStop_listings, State.scanLost, raiseEvent_listings]
    rfl
  · rw [loseTarget_of_not h]

/-! ### CQ_WRITE_BUS_ERROR (R171) -/

theorem writeError_of {c : Fin 8} {s : State} (hc : c ≠ 0) (hw : (s.cqs.look c).writing.isSome = true) :
    writeError c s = faultCq c s := by
  have : (s.cqs.look c).writing ≠ none := by
    intro e
    rw [e] at hw
    cases hw
  simp [writeError, hc, this]

/-- Discarded members touch OUTSTANDING alone of the scans. -/
theorem discardMembers_outstanding (ms : List Member) (s : State) (k : Fin 8) :
    ∃ n, (discardMembers ms s).scans.look k = { s.scans.look k with outstanding := n } := by
  induction ms generalizing s with
  | nil => exact ⟨_, rfl⟩
  | cons m ms ih =>
    have one : ∃ n, (discardMembers [m] s).scans.look k = { s.scans.look k with outstanding := n } := by
      cases m with
      | slot i => exact freeSlot_scan i s k
      | _ => exact ⟨_, rfl⟩
    obtain ⟨n, hn⟩ := ih (discardMembers [m] s)
    obtain ⟨p, hp⟩ := one
    exact ⟨n, by rw [discardMembers_cons, hn, hp]⟩

theorem faultCq_listings (i : Fin 16) {c : Fin 8} (hc : c ≠ 0) (s : State) (b : Fin 8) :
    listings i (faultCq c s) b ≤ listings i s b := by
  have lost : ∀ (l : List (Fin 8)) (u : State),
      listings i (l.foldl (fun s k => loseTarget c k s) u) = listings i u := fun l u =>
    foldl_view (listings i) _ (fun s k => loseTarget_listings i c k s) l u
  have start : listings i (faultCq c s) b = listings i (s.setCq c (s.cqs.look c).faultedNow) b := by
    calc listings i (faultCq c s) b
        = listings i (allEight.foldl (fun s k => loseTarget c k s) (raiseEvent .cqWriteError c.val
            (s.cqs.look c).tail (s.setCq c (s.cqs.look c).faultedNow))) b := by
          rw [faultCq_eq hc]
          simp only [listings, discardMembers_cqs]
      _ = _ := by rw [lost, raiseEvent_listings]
  rw [start]
  by_cases e : b = c
  · subst e
    simp [listings, Cq.faultedNow]
  · simp [listings, e]

/-- What a write error on CQ `c` leaves before the further steps of the event. -/
theorem faultCq_effect {c : Fin 8} {s u : State} {lost : Fin 8 → Bool} (hc : c ≠ 0)
    (hcq : (s.cqs.look 0).state = .active) (hlost : ∀ k, lost k = true ↔ s.losesTarget c k)
    (hu : u = faultCq c s) :
    u.aside = s.aside ∧ u.sqs = s.sqs ∧ u.cqs.look c = (s.cqs.look c).faultedNow
      ∧ (∀ b, b ≠ 0 → b ≠ c → u.cqs.look b = s.cqs.look b)
      ∧ (∀ cid, (∀ ctx, s.ax = .executing ctx → ctx.commandId = cid) → u.cqs.look 0
          = (allEight.filter lost).foldl (s.lostRing c cid)
            ((s.cqs.look 0).withEvent .cqWriteError c.val (s.cqs.look c).tail))
      ∧ (∀ i, u.slots.look i = if Member.slot i ∈ (s.cqs.look c).list then none
          else (s.slots.look i).map fun r =>
            if (allEight.any fun k => lost k && r.fromScan k) then { r with orphaned := true } else r)
      ∧ (∀ k, lost k = false → (∀ i r, Member.slot i ∈ (s.cqs.look c).list →
          s.slots.look i = some r → r.fromScan k = false) → u.scans.look k = s.scans.look k)
      ∧ (∀ k, lost k = true → ∃ n, u.scans.look k
          = { (s.scans.look k).lostNow with outstanding := n })
      ∧ ∀ k, lost k = true → s.axWork = .stopping k → u.ax.isPosting = true := by
  obtain ⟨v, hv⟩ : ∃ v, v = raiseEvent .cqWriteError c.val (s.cqs.look c).tail
    (s.setCq c (s.cqs.look c).faultedNow) := ⟨_, rfl⟩
  obtain ⟨x, hx⟩ : ∃ x, x = allEight.foldl (fun s k => loseTarget c k s) v := ⟨_, rfl⟩
  have hux : u = discardMembers (s.cqs.look c).list x := by rw [hu, faultCq_eq hc, hx, hv]
  have vcqs : v.cqs = (s.cqs.put c (s.cqs.look c).faultedNow).put 0
      ((s.cqs.look 0).withEvent .cqWriteError c.val (s.cqs.look c).tail) := by
    have base : (s.setCq c (s.cqs.look c).faultedNow).cqs.look 0 = s.cqs.look 0 := by simp [Ne.symm hc]
    rw [hv, raiseEvent_cqs _ _ _ (by rw [base]; exact hcq), base]
    rfl
  have vscans : v.scans = s.scans := by rw [hv, raiseEvent_scans]; rfl
  have vslots : v.slots = s.slots := by rw [hv, raiseEvent_slots]; rfl
  have vax : v.ax = s.ax := by rw [hv, raiseEvent_ax]; rfl
  have vwork : v.axWork = s.axWork := by simp only [State.axWork, vax]
  have active : (v.cqs.look 0).state = .active := by
    rw [vcqs, Table.look_put_same, withEvent_eq]; exact hcq
  have effect : v.scansLost x c lost allEight := hx ▸ loseTargets_lost (by decide) active fun k _ => by
    rw [hlost, State.losesTarget, State.losesTarget, vscans]
  have xaside : x.aside = s.aside := by
    rw [hx, foldl_view State.aside _ (fun s k => loseTarget_aside c k s), hv, raiseEvent_aside]
    rfl
  refine ⟨by rw [hux, discardMembers_aside, xaside], ?_, ?_, fun b h0 hb => ?_, fun cid hcid => ?_,
    fun i => ?_, fun k hk free => ?_, fun k hk => ?_, fun k hk hw => ?_⟩
  · rw [hux, discardMembers_sqs, effect.sqs, hv, raiseEvent_sqs]
    rfl
  · rw [hux, discardMembers_cqs, effect.rings c hc, vcqs, Table.look_put_ne _ _ _ _ hc,
      Table.look_put_same]
  · rw [hux, discardMembers_cqs, effect.rings b h0, vcqs, Table.look_put_ne _ _ _ _ h0,
      Table.look_put_ne _ _ _ _ hb]
  · rw [hux, discardMembers_cqs, effect.ring cid (by rwa [vax]), vcqs, Table.look_put_same]
    refine List.foldl_ext _ _ _ fun b k _ => ?_
    simp only [State.lostRing, vscans, vwork]
  · rw [hux, discardMembers_slots, effect.slots, vslots]
  · rw [hux, discardMembers_scan _ _ fun i r hm hr => ?_, effect.scans, if_neg (by simp [hk]), vscans]
    rw [effect.slots, vslots, Option.map_eq_some_iff] at hr
    obtain ⟨r', hr', rfl⟩ := hr
    rw [← free i r' hm hr']
    split <;> rfl
  · obtain ⟨n, hn⟩ := discardMembers_outstanding (s.cqs.look c).list x k
    rw [effect.scans, if_pos ⟨mem_allEight k, hk⟩, vscans] at hn
    exact ⟨n, by rw [hux, hn]⟩
  · rw [hux, discardMembers_ax]
    exact effect.posting k (mem_allEight k) hk (by rwa [vwork])

/-- Settles O38. -/
theorem cqWriteErrorFaultsTheRing : Obligations.CqWriteErrorFaultsTheRing := by
  unfold Obligations.CqWriteErrorFaultsTheRing
  intro c d s reset held hc hcq hd live hw
  subst hd
  obtain ⟨lost, hlost⟩ : ∃ lost : Fin 8 → Bool, ∀ k, lost k = true ↔ s.losesTarget c k := by
    classical exact ⟨fun k => decide (s.losesTarget c k), fun k => decide_eq_true_iff⟩
  have notLost : ∀ k, ¬ s.losesTarget c k → lost k = false := fun k h =>
    Bool.eq_false_iff.2 ((hlost k).not.2 h)
  obtain ⟨u, hu⟩ : ∃ u, u = faultCq c s := ⟨_, rfl⟩
  obtain ⟨hua, hsqs, own, others, ring, hslots, kept, lostScan, posting⟩ :=
    faultCq_effect hc hcq hlost hu
  have w : u.device = .ready ∨ u.device = .halting ∧ u.heldBack := by
    rw [aside_device hua]
    refine held.imp_right fun ⟨hh, i, r, hi, hp, hf, hm⟩ => ⟨hh, i, ?_⟩
    refine ⟨_, by rw [hslots, if_neg hm, hi]; rfl, ?_, ?_⟩
    all_goals
      beta_reduce
      split <;> assumption
  obtain ⟨cid, hcid⟩ := commandId_inHand s
  have grown := settle_cqsGrow w 0 (by simp)
  rw [ring cid hcid] at grown
  obtain ⟨-, -, -, -, -, -, -, prefix0⟩ := cqGrows_keeps grown
  have told : ∀ {kind : EventKind} {object : Nat},
      ((allEight.filter lost).foldl (s.lostRing c cid)
        ((s.cqs.look 0).withEvent .cqWriteError c.val (s.cqs.look c).tail)).tells kind object →
      ∃ e, Member.event e ∈ ((settle u).cqs.look 0).list ∧ e.kind = kind ∧ e.object = object :=
    fun ⟨e, he, h⟩ => ⟨e, prefix0.subset he, h⟩
  have stands : ∀ i r, s.slots.look i = some r → Member.slot i ∉ (s.cqs.look c).list →
      r.state ≠ .fenced → (settle u).slots.look i
        = some (if (allEight.any fun k => lost k && r.fromScan k) then { r with orphaned := true } else r) := by
    intro i r hi hm hf
    refine settle_slotsStand w i _ (by simp) ?_ ?_
    · rw [hslots, if_neg hm, hi]; rfl
    · split <;> assumption
  refine ⟨_, act_to reset ((writeError_of hc hw).trans hu.symm), (settle_aside_work w).trans hua,
    sqsStand_via (fun q _ => by rw [hsqs]) (settle_sqsStand w),
    cqsGrow_via (fun b hb => ?_) (settle_cqsGrow w), ?_, told (Cq.tells.lostRings
      (withEvent_tells ..) ..), fun lost' cid' hlost' hcid' => ?_, fun k hk free => ?_,
    fun k hrun htarget => ?_, fun i r hi hm hf free => ?_, fun i hm => ?_⟩
  · simp only [List.mem_cons, List.not_mem_nil, or_false, not_or] at hb
    exact others b hb.1 hb.2
  · rw [settle_shut w (by rw [own]; simp [Cq.faultedNow]), own]
    rfl
  · have same : lost' = lost := funext fun k => Bool.eq_iff_iff.2 ((hlost' k).trans (hlost k).symm)
    have grown := settle_cqsGrow w 0 (by simp)
    rw [ring cid' hcid', ← same] at grown
    exact grown
  · rw [← kept k (notLost k hk) free]
    exact settle_scansStand w k (by simp)
  · have hk : lost k = true := (hlost k).2 ⟨hrun, htarget⟩
    obtain ⟨n, hn⟩ := lostScan k hk
    have scan : (settle u).scans.look k = u.scans.look k := by
      obtain ⟨rest, -⟩ := settle_scansStand w k (by simp)
      exact rest (by rw [hn]; simp [Scan.lostNow, Scan.loadedNow])
        (by rw [hn]; simp [Scan.lostNow, Scan.loadedNow])
    have mem : k ∈ allEight.filter lost := by simp [hk, mem_allEight]
    rw [scan, hn]
    refine ⟨rfl, rfl, rfl, told (lostRings_tells mem ..), fun ctx hax hwork => ⟨?_, ?_⟩,
      fun i r hi hm hf hfrom => ?_⟩
    · have := posting k hk ((axWork_executing hax).trans hwork)
      rwa [settle_posting w this]
    · rw [hcid ctx hax]
      exact prefix0.subset (lostRings_admin mem ((axWork_executing hax).trans hwork) ..)
    · rw [stands i r hi hm hf, if_pos]
      exact List.any_eq_true.2 ⟨k, mem_allEight k, by simp [hk, hfrom]⟩
  · rw [stands i r hi hm hf, if_neg]
    simp only [List.any_eq_true, Bool.and_eq_true, not_exists, not_and]
    intro k _ hk
    rw [free k ((hlost k).1 hk).2]
    decide
  · obtain ⟨new, lists⟩ := freed_of_free (s := s) (i := i) w (by rw [hslots, if_pos hm])
      (by rw [hu]; exact faultCq_listings i hc s)
    refine ⟨new, fun b hb => ?_⟩
    have := lists b
    rw [← List.one_le_count_iff] at hb ⊢
    omega

end Sys2Proof.Machine
end

section
/-! The beginning of a record write, and the end of correction (chapters 2, 8 and 9). -/

namespace Sys2Proof.Machine

-- Parallel elaboration of the one text reserves more memory than the check allows.
set_option Elab.async false

/-! ### WRITE_BEGIN (R169, R204) -/

theorem beginWrite_of {c : Fin 8} {s : State} {m : Member} {rest : List Member}
    (live : (s.cqs.look c).state = .active) (hl : (s.cqs.look c).list = m :: rest)
    (hw : (s.cqs.look c).writing = none)
    (room : ((s.cqs.look c).tail + 1) % (s.cqs.look c).size ≠ (s.cqs.look c).head) :
    beginWrite c s = s.setCq c { s.cqs.look c with
      writing := some (memberRecord s m (s.cqs.look c).phase) } := by
  have : nextIndex (s.cqs.look c).tail (s.cqs.look c).size ≠ (s.cqs.look c).head := room
  simp [beginWrite, hl, hw, live, this]

theorem memberRecord_slot {s : State} {i : Fin 16} {r : SlotRec} (hr : s.slots.look i = some r)
    (phase : Bool) :
    (∀ q index a, r.origin = .sq q index a →
        memberRecord s (.slot i) phase = slotRecord r (s.sqs.look q).head phase)
      ∧ ∀ k index pass, r.origin = .scan k index pass →
        memberRecord s (.slot i) phase = slotRecord r 0 phase := by
  refine ⟨fun q index a ho => ?_, fun k index pass ho => ?_⟩ <;> simp [memberRecord, hr, ho]

theorem flags_bits (f : RecFlags) : (byteOf f.code).getLsbD 0 = f.raw
    ∧ (byteOf f.code).getLsbD 1 = f.autoranged ∧ (byteOf f.code).getLsbD 2 = f.degraded
    ∧ (byteOf f.code).getLsbD 3 = f.overrangePos ∧ (byteOf f.code).getLsbD 4 = f.overrangeNeg
    ∧ (byteOf f.code).getLsbD 5 = f.limitChange ∧ (byteOf f.code).getLsbD 6 = false
    ∧ (byteOf f.code).getLsbD 7 = false := by
  obtain ⟨a, b, c, d, e, g⟩ := f
  revert a b c d e g
  decide

/-- Settles O35. -/
theorem writeBegins : Obligations.WriteBegins := by
  unfold Obligations.WriteBegins
  refine ⟨fun c m rest s work live hl hw room => ?_, fun r res head phase x hr hx => ?_,
    fun _ _ _ => rfl, fun _ _ => rfl, fun _ _ => rfl⟩
  · have hf := beginWrite_of live hl hw room
    obtain ⟨u, hu⟩ : ∃ u, u = beginWrite c s := ⟨_, rfl⟩
    have hue := hu.trans hf
    obtain ⟨ran, w, aside, slots, scans, sqs, cqs⟩ := act_bare work hu.symm (by rw [hue]; rfl)
      (by rw [hue]; rfl) (by rw [hue]; rfl) (by rw [hue]; rfl) (by rw [hu]; exact beginWrite_grow c s)
    have own : u.cqs.look c = { s.cqs.look c with
        writing := some (memberRecord s m (s.cqs.look c).phase) } := by rw [hue]; simp
    have phase : ∀ p, (memberRecord s m p).phase = p := fun p => by
      unfold memberRecord
      repeat' split
      all_goals rfl
    refine ⟨_, _, ran, aside.trans (by rw [hue]; rfl), slots, scans, sqs, cqsGrow_mono (by simp) cqs,
      own ▸ settle_cqsGrow w c (by simp), phase _, ?_, ?_, ?_, ?_, ?_⟩
    · rintro d rfl; rfl
    · rintro e rfl; rfl
    · rintro d rfl; rfl
    · rintro i r q index a rfl hr ho
      exact (memberRecord_slot hr _).1 q index a ho
    · rintro i r k index pass rfl hr ho
      exact (memberRecord_slot hr _).2 k index pass ho
  · have flags : x.flags = byteOf res.flags.code := by rw [hx]; simp [slotRecord, hr]
    obtain ⟨f0, f1, f2, f3, f4, f5, f6, f7⟩ := flags_bits res.flags
    rw [← flags] at f0 f1 f2 f3 f4 f5 f6 f7
    refine ⟨?_, fun q index a ho => ?_, fun k index pass ho => ?_, f0, f1, f2, f3, f4, f5, f6, f7⟩
    · subst hx
      simp only [slotRecord, hr, Option.getD_some]
      rcases r.grant with _ | ⟨_ | _, _⟩ <;> rfl
    · subst hx
      simp [slotRecord, ho, Record.zero, byteOf]
    · subst hx
      simp [slotRecord, ho, Record.zero, byteOf]

/-! ### A slot sent on at the end of its work (R38) -/

theorem postSlot_freed {i : Fin 16} {r : SlotRec} {res : Result} {s : State}
    (h : s.slots.look i = some r) (ha : ¬ s.receives r) : postSlot i res s
      = freeSlot i (s.setSlot i (some { r with state := .posting, result := some res })) := by
  rcases not_and_or.1 ha with idle | orphaned
  · simp [postSlot, h, handOff, idle]
  · simp [postSlot, h, handOff, Bool.not_eq_false _ ▸ orphaned]

theorem freeSlot_scan_other {i : Fin 16} {s : State} {k : Fin 8}
    (h : ∀ r, s.slots.look i = some r → r.fromScan k = false) :
    (freeSlot i s).scans.look k = s.scans.look k :=
  discardMembers_scan [.slot i] s fun j r hj hr => by
    simp only [List.mem_singleton, Member.slot.injEq] at hj
    exact h r (hj ▸ hr)

/-- The event of a command that posts slot `i`, which held `r`. -/
theorem act_posts {f : State → State} {s v : State} {i : Fin 16} {r : SlotRec} {res : Result}
    (reset : s.heldInReset = false) (held : s.worksBut i) (hi : s.slots.look i = some r)
    (hd : v.device = s.device) (hslots : v.slots = s.slots) (hscans : v.scans = s.scans)
    (hsqs : v.sqs = s.sqs) (hcqs : v.cqs = s.cqs) (hf : f s = postSlot i res v) :
    ∃ t, act f s = .next t ∧ t.aside = v.aside ∧ slotsStand [i] s t ∧ sqsStand [] s t
      ∧ cqsGrow [] s t
      ∧ (∀ j, r.fromScan j = false → scanStands (s.scans.look j) (t.scans.look j))
      ∧ (s.receives r → scansStand [] s t
        ∧ t.slots.look i = some { r with state := .posting, result := some res }
        ∧ (s.cqs.look r.targetCq).list ++ [.slot i] <+: (t.cqs.look r.targetCq).list)
      ∧ (¬ s.receives r → freed i s t) := by
  have hvi : v.slots.look i = some r := by rw [hslots, hi]
  obtain ⟨u, hu⟩ : ∃ u, u = postSlot i res v := ⟨_, rfl⟩
  have others : ∀ j, j ≠ i → u.slots.look j = s.slots.look j := fun j hj => by
    rw [hu, postSlot_slots_ne hj, hslots]
  have hua : u.aside = v.aside := by rw [hu, postSlot_aside]
  have w := held.of_frame (u := u) ((aside_device hua).trans hd) others
  have grow : cqsGrow [] s u := by
    rw [hu]
    exact cqsGrow_trans (cqsGrow_of_eq hcqs) (postSlot_grow i res v)
  refine ⟨_, act_to reset (hf.trans hu.symm), (settle_aside_work w).trans hua,
    slotsStand_via (fun j hj => others j (by simpa using hj)) (settle_slotsStand w),
    sqsStand_via (fun q _ => ?_) (settle_sqsStand w), cqsGrow_trans grow (settle_cqsGrow w),
    fun j hj => ?_, fun ⟨active, notOrphaned⟩ => ?_, fun gone => ?_⟩
  · rw [hu, postSlot_sqs, hsqs]
  · have same : u.scans.look j = s.scans.look j := by
      rw [hu]
      by_cases rec : v.receives r
      · rw [postSlot_active hvi rec.1 rec.2, ← hscans]
        rfl
      · rw [postSlot_freed hvi rec, freeSlot_scan_other, ← hscans]
        · rfl
        · intro r' hr'
          simp only [State.setSlot_slots, Table.look_put_same, Option.some.injEq] at hr'
          subst hr'
          exact hj
    rw [← same]
    exact settle_scansStand w j (by simp)
  · rw [← hcqs] at active
    have scans : u.scans = s.scans := by
      rw [hu, postSlot_active hvi active notOrphaned, ← hscans]
      rfl
    obtain ⟨slot, list⟩ := settle_posted (res := res) hvi active notOrphaned (by rwa [hu] at w)
    rw [← hu, hcqs] at list
    rw [← hu] at slot
    exact ⟨scansStand_via (fun k _ => by rw [scans]) (settle_scansStand w), slot, list⟩
  · have notRec : ¬ v.receives r := by
      unfold State.receives
      rw [hcqs]
      exact gone
    have hue := hu.trans (postSlot_freed hvi notRec)
    refine freed_of_free w (by rw [hue, freeSlot_slots, Table.look_put_same]) fun c => ?_
    rw [hue, freeSlot_listings]
    simp only [listings, State.setSlot_cqs, hcqs, le_refl]

/-- The event of a command that frees slot `i`, which held `r`, without a record. -/
theorem act_frees {f : State → State} {s : State} {i : Fin 16} {r : SlotRec}
    (reset : s.heldInReset = false) (held : s.worksBut i) (hi : s.slots.look i = some r)
    (hf : f s = freeSlot i s) :
    ∃ t, act f s = .next t ∧ t.aside = s.aside ∧ slotsStand [i] s t ∧ sqsStand [] s t
      ∧ cqsGrow [] s t
      ∧ (∀ j, r.fromScan j = false → scanStands (s.scans.look j) (t.scans.look j))
      ∧ freed i s t := by
  obtain ⟨u, hu⟩ : ∃ u, u = freeSlot i s := ⟨_, rfl⟩
  have others : ∀ j, j ≠ i → u.slots.look j = s.slots.look j := fun j hj => by
    rw [hu, freeSlot_slots_ne hj]
  have hua : u.aside = s.aside := by rw [hu, freeSlot_aside]
  have w := held.of_frame (u := u) (aside_device hua) others
  refine ⟨_, act_to reset (hf.trans hu.symm), (settle_aside_work w).trans hua,
    slotsStand_via (fun j hj => others j (by simpa using hj)) (settle_slotsStand w),
    sqsStand_via (fun q _ => by rw [hu, freeSlot_sqs]) (settle_sqsStand w),
    cqsGrow_via (fun c _ => by rw [hu, freeSlot_cqs]) (settle_cqsGrow w), fun j hj => ?_,
    freed_of_free w (by rw [hu, freeSlot_slots, Table.look_put_same]) fun c => ?_⟩
  · rw [← freeSlot_scan_other (i := i) (s := s) (k := j) fun r' hr' => ?_, ← hu]
    · exact settle_scansStand w j (by simp)
    · rw [hi] at hr'
      cases hr'
      exact hj
  · rw [hu, freeSlot_listings]

/-! ### CORRECTION_END (R35, R150 to R152) -/

/-- The LIMIT STATE that a result leaves a template with a limit block in (R150, R151). -/
def newLimit (l : LimitBlock) (x : Template) (res : Result) : LimitState :=
  if res.status = .success ∨ res.status = .overrange then classify l x.limitState res
  else x.limitState

theorem classified_iff {st : ReqStatus} : st.classified = true ↔ st = .success ∨ st = .overrange := by
  cases st <;> simp [ReqStatus.classified]

theorem classifySlot_eq (i : Fin 16) (place : Nat) (x : Template) (l : LimitBlock) (res : Result)
    (s : State) : classifySlot i place x l res s =
      if l.changesOnly = true ∧ newLimit l x res = x.limitState then freeSlot i s
      else postSlot i
        { res with
          limitNew := newLimit l x res, limitPrev := x.limitState,
          flags := { res.flags with limitChange := decide (newLimit l x res ≠ x.limitState) } }
        (setLimitState place (newLimit l x res) s) := by
  have new : (if res.status.classified then classify l x.limitState res else x.limitState)
      = newLimit l x res := by simp only [newLimit, classified_iff]
  have changed : ∀ n : LimitState, (n != x.limitState) = decide (n ≠ x.limitState) := fun n => by
    by_cases e : n = x.limitState <;> simp [e]
  unfold classifySlot
  simp only [new, changed]
  congr 1
  simp

section correctionEnd

variable {i : Fin 16} {r : SlotRec} {res : Result} {s : State} (hi : s.slots.look i = some r)
  (hc : r.state = .correcting) (hr : r.result = some res)

include hi hc hr

theorem correctionEnd_of_sq {q : Fin 8} {index : Nat} {a : Option Admission}
    (ho : r.origin = .sq q index a) : correctionEnd i s = postSlot i res s := by
  simp [correctionEnd, hi, hc, hr, ho]

theorem correctionEnd_of_orphaned (h : r.orphaned = true) : correctionEnd i s = postSlot i res s := by
  rcases ho : r.origin with ⟨q, index, a⟩ | ⟨k, index, pass⟩ <;>
    simp [correctionEnd, hi, hc, hr, ho, h]

theorem correctionEnd_of_scan {k : Fin 8} {index pass : Nat} {x : Template}
    (ho : r.origin = .scan k index pass) (hor : r.orphaned = false)
    (hx : s.templates[(s.scans.look k).first + index]? = some x) :
    (x.limits = none → correctionEnd i s = postSlot i res s)
      ∧ ∀ l, x.limits = some l → correctionEnd i s
        = classifySlot i ((s.scans.look k).first + index) x l res s := by
  refine ⟨fun hl => ?_, fun l hl => ?_⟩ <;>
    simp [correctionEnd, hi, hc, hr, ho, hor, templateOf, hx, hl]

end correctionEnd

theorem setLimitState_place {s : State} {place : Nat} {x : Template} (hx : s.templates[place]? = some x)
    (n : LimitState) : (setLimitState place n s).templates[place]? = some { x with limitState := n }
      ∧ ∀ p, p ≠ place → (setLimitState place n s).templates[p]? = s.templates[p]? := by
  refine ⟨by simp [setLimitState, hx], fun p hp => ?_⟩
  simp [setLimitState, Ne.symm hp]

/-- The end of correction of a slot of a template with a limit block. -/
theorem correctionEnd_classified {i : Fin 16} {r : SlotRec} {res : Result} {s : State}
    (reset : s.heldInReset = false) (held : s.worksBut i) (hi : s.slots.look i = some r)
    (hc : r.state = .correcting) (hr : r.result = some res) (hor : r.orphaned = false) {k : Fin 8}
    {index pass : Nat} {x : Template} {l : LimitBlock} (ho : r.origin = .scan k index pass)
    (hx : s.templates[(s.scans.look k).first + index]? = some x) (hl : x.limits = some l) :
    ∃ t, exec (.correctionEnd i) s = .next t ∧ slotsStand [i] s t ∧ sqsStand [] s t ∧ cqsGrow [] s t
      ∧ t.control = s.control ∧ t.frontEnd = s.frontEnd ∧ t.store = s.store
      ∧ t.intPending = s.intPending
      ∧ t.templates[(s.scans.look k).first + index]? = some { x with limitState := newLimit l x res }
      ∧ (∀ p, p ≠ (s.scans.look k).first + index → t.templates[p]? = s.templates[p]?)
      ∧ (∀ j, j ≠ k → scanStands (s.scans.look j) (t.scans.look j))
      ∧ (s.receives r → l.changesOnly = false ∨ newLimit l x res ≠ x.limitState → scansStand [] s t
          ∧ t.slots.look i = some { r with
            state := .posting
            result := some { res with
              limitNew := newLimit l x res, limitPrev := x.limitState,
              flags := { res.flags with limitChange := decide (newLimit l x res ≠ x.limitState) } } }
          ∧ (s.cqs.look r.targetCq).list ++ [.slot i] <+: (t.cqs.look r.targetCq).list)
      ∧ (l.changesOnly = true → newLimit l x res = x.limitState → freed i s t)
      ∧ (¬ s.receives r → freed i s t) := by
  have hf := ((correctionEnd_of_scan hi hc hr ho hor hx).2 l hl).trans (classifySlot_eq ..)
  have other : ∀ j, j ≠ k → r.fromScan j = false := fun j hj => by
    simp [SlotRec.fromScan, ho, Ne.symm hj]
  by_cases quiet : l.changesOnly = true ∧ newLimit l x res = x.limitState
  · rw [if_pos quiet] at hf
    obtain ⟨t, ran, aside, slots, sqs, cqs, scans, free⟩ := act_frees reset held hi hf
    have temps := aside_templates aside
    refine ⟨t, ran, slots, sqs, cqs, aside_control aside, aside_frontEnd aside, aside_store aside,
      aside_intPending aside, ?_, fun p _ => by rw [temps], fun j hj => scans j (other j hj),
      fun _ changed => ?_, fun _ _ => free, fun _ => free⟩
    · rw [temps, hx, quiet.2]
    · obtain h | h := changed
      · rw [quiet.1] at h
        cases h
      · exact absurd quiet.2 h
  · rw [if_neg quiet] at hf
    obtain ⟨v, hv⟩ : ∃ v, v = setLimitState ((s.scans.look k).first + index) (newLimit l x res) s :=
      ⟨_, rfl⟩
    rw [← hv] at hf
    obtain ⟨t, ran, aside, slots, sqs, cqs, scans, posts, frees⟩ := act_posts reset held hi
      (by rw [hv]; rfl) (by rw [hv]; rfl) (by rw [hv]; rfl) (by rw [hv]; rfl) (by rw [hv]; rfl) hf
    obtain ⟨place, places⟩ := setLimitState_place hx (newLimit l x res)
    rw [← hv] at place places
    have temps := aside_templates aside
    refine ⟨t, ran, slots, sqs, cqs, (aside_control aside).trans (by rw [hv]; rfl),
      (aside_frontEnd aside).trans (by rw [hv]; rfl), (aside_store aside).trans (by rw [hv]; rfl),
      (aside_intPending aside).trans (by rw [hv]; rfl), by rw [temps, place],
      fun p hp => by rw [temps, places p hp], fun j hj => scans j (other j hj),
      fun rec _ => posts rec, fun h1 h2 => absurd ⟨h1, h2⟩ quiet, frees⟩

/-- Settles O33. -/
theorem correctionEndPosts : Obligations.CorrectionEndPosts := by
  unfold Obligations.CorrectionEndPosts
  intro i r res s reset held hi hc hr
  have posted : correctionEnd i s = postSlot i res s → ∃ t, exec (.correctionEnd i) s = .next t
      ∧ t.aside = s.aside ∧ slotsStand [i] s t ∧ sqsStand [] s t ∧ cqsGrow [] s t
      ∧ (∀ j, r.fromScan j = false → scanStands (s.scans.look j) (t.scans.look j))
      ∧ (s.receives r → scansStand [] s t
        ∧ t.slots.look i = some { r with state := .posting, result := some res }
        ∧ (s.cqs.look r.targetCq).list ++ [.slot i] <+: (t.cqs.look r.targetCq).list)
      ∧ (¬ s.receives r → freed i s t) :=
    act_posts reset held hi rfl rfl rfl rfl rfl
  have plain : r.orphaned = false → ((∃ q index a, r.origin = .sq q index a)
      ∨ (∃ k index pass x, r.origin = .scan k index pass
        ∧ s.templates[(s.scans.look k).first + index]? = some x ∧ x.limits = none)) →
      correctionEnd i s = postSlot i res s := by
    rintro hor (⟨q, index, a, ho⟩ | ⟨k, index, pass, x, ho, hx, hl⟩)
    · exact correctionEnd_of_sq hi hc hr ho
    · exact (correctionEnd_of_scan hi hc hr ho hor hx).1 hl
  refine ⟨fun hor active => ⟨fun from_ => ?_, fun k index pass x l new ho hx hl hnew => ?_⟩,
    fun gone => ?_, fun hor idle k index pass x l ho hx hl => ?_⟩
  · obtain ⟨t, ran, aside, slots, sqs, cqs, -, posts, -⟩ := posted (plain hor from_)
    obtain ⟨scans, slot, list⟩ := posts ⟨active, hor⟩
    exact ⟨t, ran, aside, slots, sqs, cqs, scans, by rw [slot, hr], list⟩
  · obtain rfl : new = newLimit l x res := hnew
    obtain ⟨t, ran, slots, sqs, cqs, control, front, store, ints, place, places, scans, posts, frees, -⟩ :=
      correctionEnd_classified reset held hi hc hr hor ho hx hl
    exact ⟨t, ran, slots, sqs, cqs, control, front, store, ints, place, places, scans,
      posts ⟨active, hor⟩, frees⟩
  · have notRec : ¬ s.receives r := by
      rintro ⟨active, hor⟩
      rcases gone with h | ⟨h, -⟩
      · rw [hor] at h
        cases h
      · exact h active
    have hf : correctionEnd i s = postSlot i res s := by
      by_cases hor : r.orphaned = true
      · exact correctionEnd_of_orphaned hi hc hr hor
      · rcases gone with h | ⟨-, h⟩
        · exact absurd h hor
        · exact plain (Bool.eq_false_iff.2 hor) h
    obtain ⟨t, ran, aside, slots, sqs, cqs, scans, -, frees⟩ := posted hf
    exact ⟨t, ran, aside, slots, sqs, cqs, frees notRec, scans⟩
  · obtain ⟨t, ran, slots, sqs, cqs, control, front, store, ints, place, places, scans, -, -, frees⟩ :=
      correctionEnd_classified reset held hi hc hr hor ho hx hl
    exact ⟨t, ran, frees fun ⟨active, _⟩ => idle active, slots, sqs, cqs, control, front, store, ints,
      scans, place, places⟩

end Sys2Proof.Machine
end

section
/-! The timebase: what one event makes of a scan's record, ticks and countdown expiries (chapter 8). -/

namespace Sys2Proof.Machine

-- Parallel elaboration of the one text reserves more memory than the check allows.
set_option Elab.async false

/-! ### One scan's record through the steps of an event (R144, R145) -/

/-- The record once a pass that is complete has ended the run, or not (R145). -/
def Scan.passEnded (d : Device) (k : Scan) : Scan :=
  if k.inProgress = false ∧ (k.state = .running ∧ d ≠ .halting ∧ k.passLimit ≠ 0 ∧ k.remaining = 0
    ∨ k.state = .stopping) then k.loadedNow
  else k

/-- The record once a countdown at 0 has expired (R145). -/
def Scan.expiredNow (d : Device) (k : Scan) : Scan :=
  if d = .ready ∧ k.state = .running ∧ k.counting = true ∧ k.countdown = 0 then
    if k.inProgress then { k with overruns := min maxCount (k.overruns + 1), countdown := k.period }
    else k.startPass
  else k

/-- The record once `n` more of its templates have been admitted (R144). -/
def Scan.admitted (k : Scan) (n : Nat) : Scan :=
  { k with nextTemplate := k.nextTemplate + n, outstanding := k.outstanding + n }

theorem passComplete_look (k : Fin 8) (s : State) :
    (passComplete k s).scans.look k = (s.scans.look k).passEnded s.device := by
  unfold passComplete Scan.passEnded
  dsimp only
  by_cases p : (s.scans.look k).inProgress = true
  · simp [p]
  · rw [if_neg p]
    cases e : (s.scans.look k).state <;> simp only [Bool.not_eq_true] at p <;> simp [p]
    split <;> simp

theorem expire_look (k : Fin 8) (s : State) :
    (expire k s).scans.look k = (s.scans.look k).expiredNow s.device := by
  unfold expire Scan.expiredNow
  dsimp only
  split
  · split <;> simp
  · rfl

theorem beforeFills_stepped (u : State) (k : Fin 8) : u.beforeFills.scans.look k
    = ((u.scans.look k).passEnded u.device).expiredNow u.device := by
  rw [beforeFills_scan, expire_look]
  have device : (deleteSqStage (passStage (fenceStage u))).device = u.device :=
    aside_device (by simp)
  have fence : (fenceStage u).device = u.device := aside_device (by simp)
  rw [device, deleteSqStage_scans, passStage_look, passComplete_look, fence, fenceStage_scans]

theorem settle_stepped {u : State} (w : u.device = .ready ∨ u.device = .halting ∧ u.heldBack)
    (k : Fin 8) : ∃ n, (settle u).scans.look k
      = (((u.scans.look k).passEnded u.device).expiredNow u.device).admitted n := by
  have fill := settle_scan w (k := k)
  rw [beforeFills_stepped] at fill
  rcases fill with e | ⟨-, n, e⟩
  · exact ⟨0, e⟩
  · exact ⟨n, e⟩

theorem Scan.passEnded_inProgress {k : Scan} (h : k.inProgress = true) (d : Device) :
    k.passEnded d = k := by simp [Scan.passEnded, h]

/-- A run that is not at its end goes on. -/
theorem Scan.passEnded_goesOn {k : Scan} {d : Device} (h : k.state ≠ .stopping)
    (hr : d = .halting ∨ k.passLimit = 0 ∨ k.remaining ≠ 0) : k.passEnded d = k := by
  unfold Scan.passEnded
  rw [if_neg]
  rintro ⟨-, ⟨-, hd, hl, hm⟩ | hs⟩
  · rcases hr with h1 | h1 | h1
    · exact hd h1
    · exact hl h1
    · exact h1 hm
  · exact h hs

theorem Scan.expiredNow_counts {k : Scan} {d : Device} (h : k.counting = true → k.countdown ≠ 0) :
    k.expiredNow d = k := by
  unfold Scan.expiredNow
  rw [if_neg]
  rintro ⟨-, -, hc, h0⟩
  exact h hc h0

theorem Scan.expiredNow_overruns {k : Scan} (hs : k.state = .running) (hc : k.counting = true)
    (h0 : k.countdown = 0) (hp : k.inProgress = true) : k.expiredNow .ready
      = { k with overruns := min maxCount (k.overruns + 1), countdown := k.period } := by
  simp [Scan.expiredNow, hs, hc, h0, hp]

theorem Scan.expiredNow_starts {k : Scan} (hs : k.state = .running) (hc : k.counting = true)
    (h0 : k.countdown = 0) (hp : k.inProgress = false) : k.expiredNow .ready = k.startPass := by
  simp [Scan.expiredNow, hs, hc, h0, hp]

theorem Scan.inProgress_iff {k : Scan} :
    k.inProgress = true ↔ k.nextTemplate < k.count ∨ 0 < k.outstanding := by simp [Scan.inProgress]

theorem Scan.inProgress_false {k : Scan} (hn : k.count ≤ k.nextTemplate) (ho : k.outstanding = 0) :
    k.inProgress = false := by simp [Scan.inProgress, hn, ho]

/-- A scan whose countdown stands above 0 keeps countdown, pass number and overruns. -/
theorem settle_counting {u : State} (w : u.device = .ready ∨ u.device = .halting ∧ u.heldBack)
    {k : Fin 8} {sc : Scan} (hk : u.scans.look k = sc) (h0 : sc.countdown ≠ 0) :
    ((settle u).scans.look k).countdown = sc.countdown
      ∧ ((settle u).scans.look k).passNumber = sc.passNumber
      ∧ ((settle u).scans.look k).overruns = sc.overruns := by
  obtain ⟨n, hn⟩ := settle_stepped w k
  rw [hk] at hn
  have ended : (sc.passEnded u.device).countdown = sc.countdown
      ∧ (sc.passEnded u.device).passNumber = sc.passNumber
      ∧ (sc.passEnded u.device).overruns = sc.overruns := by
    unfold Scan.passEnded
    split <;> exact ⟨rfl, rfl, rfl⟩
  rw [Scan.expiredNow_counts fun _ => by rw [ended.1]; exact h0] at hn
  rw [hn]
  exact ended

/-! ### Ticks and expiries (R142, R143, R145) -/

/-- The event of a command that writes scan records alone. -/
theorem act_scans {f : State → State} {s u : State} (reset : s.heldInReset = false)
    (ready : s.device = .ready) (hf : f s = u) (hu : u = { s with scans := u.scans })
    {l : List (Fin 8)} (hscans : ∀ k, k ∉ l → u.scans.look k = s.scans.look k) :
    act f s = .next (settle u) ∧ (u.device = .ready ∨ u.device = .halting ∧ u.heldBack)
      ∧ (settle u).aside = s.aside ∧ slotsStand [] s (settle u) ∧ scansStand l s (settle u)
      ∧ sqsStand [] s (settle u) ∧ cqsGrow [] s (settle u) := by
  have w : u.device = .ready ∨ u.device = .halting ∧ u.heldBack := .inl (by rw [hu]; exact ready)
  have slots : u.slots = s.slots := by rw [hu]
  have sqs : u.sqs = s.sqs := by rw [hu]
  have cqs : u.cqs = s.cqs := by rw [hu]
  refine ⟨act_to reset hf, w, ?_, slotsStand_via (fun _ _ => by rw [slots]) (settle_slotsStand w),
    scansStand_via hscans (settle_scansStand w),
    sqsStand_via (fun _ _ => by rw [sqs]) (settle_sqsStand w),
    cqsGrow_via (fun _ _ => by rw [cqs]) (settle_cqsGrow w)⟩
  rw [settle_aside_work w, hu]
  rfl

theorem expire_eq {k : Fin 8} {s : State} : expire k s = s.setScan k ((s.scans.look k).expiredNow s.device) := by
  have same : s.setScan k (s.scans.look k) = s := by
    have : s.scans.put k (s.scans.look k) = s.scans := by
      apply Table.ext_look
      intro j
      by_cases e : j = k
      · rw [e, Table.look_put_same]
      · rw [Table.look_put_ne _ _ _ _ e]
    simp [State.setScan, this]
  unfold expire Scan.expiredNow
  dsimp only
  split
  · split <;> rfl
  · exact same.symm

/-- The event of a COUNTDOWN_EXPIRY that the scan's record answers with `x`. -/
theorem act_expires {k : Fin 8} {s : State} {x : Scan} (reset : s.heldInReset = false)
    (ready : s.device = .ready) (hx : (s.scans.look k).expiredNow .ready = x)
    (hp : x.inProgress = true) (h0 : x.countdown ≠ 0) :
    ∃ u n, exec (.countdownExpiry k) s = .next u
      ∧ u.scans.look k = x.admitted n
      ∧ u.aside = s.aside ∧ slotsStand [] s u ∧ scansStand [k] s u ∧ sqsStand [] s u
      ∧ cqsGrow [] s u := by
  obtain ⟨u, hu⟩ : ∃ u, u = s.setScan k x := ⟨_, rfl⟩
  have hf : expire k s = u := by rw [expire_eq, ready, hx, hu]
  obtain ⟨ran, w, aside, slots, scans, sqs, cqs⟩ := act_scans reset ready hf (by rw [hu]; rfl)
    (l := [k]) fun j hj => by
      rw [hu, State.setScan_scans, Table.look_put_ne _ _ _ _ (by simpa using hj)]
  obtain ⟨n, hn⟩ := settle_stepped w k
  have own : u.scans.look k = x := by rw [hu]; simp
  rw [own, Scan.passEnded_inProgress hp, Scan.expiredNow_counts fun _ => h0] at hn
  exact ⟨_, n, ran, hn, aside, slots, scans, sqs, cqs⟩

/-- Settles O52. -/
theorem tickAndExpiry : Obligations.TickAndExpiry := by
  unfold Obligations.TickAndExpiry
  intro s reset ready
  obtain ⟨u, hu⟩ : ∃ u, u = { s with scans := Table.build fun k => (s.scans.look k).ticked } := ⟨_, rfl⟩
  have hf : tick s = u := by rw [tick, if_pos ready, hu]
  have look : ∀ k, u.scans.look k = (s.scans.look k).ticked := fun k => by rw [hu]; simp
  obtain ⟨ran, w, aside, slots, -, sqs, cqs⟩ := act_scans reset ready hf (by rw [hu])
    (l := allEight) fun k hk => absurd (mem_allEight k) hk
  have device : u.device = .ready := by rw [hu]; exact ready
  refine ⟨_, ran, aside, slots, sqs, cqs, fun k hk => ?_, fun k sc hsc hc => ?_⟩
  · have same : u.scans.look k = s.scans.look k := by rw [look, Scan.ticked, if_neg (by simp [hk])]
    rw [← same]
    exact settle_scansStand w k (by simp)
  obtain ⟨x, hx⟩ : ∃ x, x = { sc with countdown := sc.countdown - 1 } := ⟨_, rfl⟩
  have ticked : u.scans.look k = x := by rw [look, hsc, Scan.ticked, if_pos hc, hx]
  have xCount : x.countdown = sc.countdown - 1 := by rw [hx]
  obtain ⟨n, stepped⟩ := settle_stepped w k
  rw [ticked, device] at stepped
  refine ⟨fun h2 => ?_, fun run progress => ⟨fun h1 => ?_, fun h0 hperiod => ?_⟩,
    fun run past idle more => ⟨fun h1 => ?_, fun h0 hperiod hcount => ?_⟩⟩
  · obtain ⟨countdown, pass, overruns⟩ := settle_counting w ticked (by omega)
    exact ⟨countdown.trans xCount, pass.trans (by rw [hx]), overruns.trans (by rw [hx])⟩
  · have progress' : x.inProgress = true := by rw [hx]; exact Scan.inProgress_iff.2 progress
    rw [Scan.passEnded_inProgress progress', Scan.expiredNow_overruns (by rw [hx]; exact run)
      (by rw [hx]; exact hc) (by omega) progress', hx] at stepped
    rw [stepped]
    exact ⟨rfl, rfl, rfl, run⟩
  · have expired := Scan.expiredNow_overruns run hc h0 (Scan.inProgress_iff.2 progress)
    rw [← hsc] at expired
    obtain ⟨v, m, ranV, scan, rest⟩ := act_expires reset ready expired
      (by rw [hsc]; exact Scan.inProgress_iff.2 progress) (by rw [hsc]; exact hperiod)
    rw [hsc] at scan
    exact ⟨v, ranV, by rw [scan]; rfl, by rw [scan]; rfl, by rw [scan]; rfl, rest⟩
  · have idle' : x.inProgress = false := by rw [hx]; exact Scan.inProgress_false past idle
    rw [Scan.passEnded_goesOn (by rw [hx, run]; decide) (.inr (by rw [hx]; exact more)),
      Scan.expiredNow_starts (by rw [hx]; exact run) (by rw [hx]; exact hc) (by omega) idle',
      hx] at stepped
    rw [stepped]
    exact ⟨rfl, rfl, rfl, rfl, rfl, by simp [Scan.startPass, Scan.admitted, idle]⟩
  · have expired := Scan.expiredNow_starts run hc h0 (Scan.inProgress_false past idle)
    rw [← hsc] at expired
    obtain ⟨v, m, ranV, scan, rest⟩ := act_expires reset ready expired
      (Scan.inProgress_iff.2 (.inl (by rw [hsc]; exact hcount))) (by rw [hsc]; exact hperiod)
    rw [hsc] at scan
    exact ⟨v, ranV, by rw [scan]; rfl, by rw [scan]; rfl, by rw [scan]; rfl, by rw [scan]; rfl,
      by rw [scan]; rfl, by rw [scan]; simp [Scan.startPass, Scan.admitted, idle], rest⟩

end Sys2Proof.Machine
end

section
/-! SCAN_START (chapter 8). -/

namespace Sys2Proof.Machine

-- Parallel elaboration of the one text reserves more memory than the check allows.
set_option Elab.async false

/-! ### The checks of SCAN_START (R141) -/

theorem scanHasSlots_true {s : State} {k : Fin 8} :
    scanHasSlots s k = true ↔ ∃ i r, s.slots.look i = some r ∧ r.fromScan k = true := by
  refine ⟨fun h => ?_, fun ⟨i, r, hr, hf⟩ => anySlot_true hr hf⟩
  by_contra none
  have : s.anySlot (fun r => r.fromScan k) = false := anySlot_false.2 fun i r hr => by
    rw [← Bool.not_eq_true]
    exact fun hf => none ⟨i, r, hr, hf⟩
  rw [scanHasSlots, this] at h
  cases h

section scanStart

variable {scan target cls limit : Byte} {period passes : BitVec 16} {s : State}

theorem runScanStart_id (h : 7 < scan.toNat) :
    runScanStart scan period passes target cls limit s = complete .invalidField 1 0 s := by
  simp [runScanStart, h]

variable (h7 : scan.toNat ≤ 7)

include h7

theorem runScanStart_period (h : period.toNat = 0) :
    runScanStart scan period passes target cls limit s = complete .invalidField 2 0 s := by
  simp [runScanStart, Nat.not_lt.2 h7, h]

/-- The checks of the target, the class and the limit, and those of the scan. -/
theorem runScanStart_fields (h : 1 ≤ period.toNat) :
    runScanStart scan period passes target cls limit s =
      if target.toNat = 0 ∨ 7 < target.toNat then complete .invalidField 4 0 s
      else if 3 < cls.toNat then complete .invalidField 5 0 s
      else if limit.toNat = 0 ∨ 16 < limit.toNat then complete .invalidField 6 0 s
      else if (s.scans.look (eighth scan.toNat)).state = .running
          ∨ (s.scans.look (eighth scan.toNat)).state = .stopping
          ∨ scanHasSlots s (eighth scan.toNat) = true ∨ s.device ≠ .ready then complete .busy 0 0 s
      else if (s.scans.look (eighth scan.toNat)).state = .empty then complete .invalidField 1 0 s
      else if (s.cqs.look (eighth target.toNat)).state ≠ .active then complete .noSuchQueue 4 0 s
      else complete .success 0 0 ((resetLimits (eighth scan.toNat) s).setScan (eighth scan.toNat)
        ((s.scans.look (eighth scan.toNat)).started period.toNat passes.toNat (eighth target.toNat)
          (classOf cls.toNat) limit.toNat)) := by
  have good : ¬ period.toNat = 0 := by omega
  unfold runScanStart
  dsimp only
  rw [if_neg (Nat.not_lt.2 h7), if_neg good]

end scanStart

/-! ### A scan that starts -/

theorem resetLimits_templates (k : Fin 8) (s : State) (p : Nat) :
    (resetLimits k s).templates[p]? = (s.templates[p]?).map fun x =>
      if (s.scans.look k).first ≤ p ∧ p < (s.scans.look k).first + (s.scans.look k).count then
        { x with limitState := .unknown }
      else x := by
  simp [resetLimits, List.getElem?_mapIdx]

theorem Scan.started_admitted (sc : Scan) (period passes : Nat) (target : Fin 8) (cls : Fin 4)
    (limit n : Nat) : (sc.started period passes target cls limit).admitted n = { sc with
      state := .running, period := period, passLimit := passes, remaining := passes - 1,
      target := some target, cls := cls, limit := limit, countdown := period, counting := true,
      passNumber := 1, overruns := 0, nextTemplate := n, outstanding := sc.outstanding + n } := by
  have remaining : (if passes = 0 then passes else passes - 1) = passes - 1 := by
    split <;> omega
  simp [Scan.admitted, Scan.started, Scan.startPass, remaining, maxCount]

/-- The event of a SCAN_START that passes its checks. -/
theorem scanStart_succeeds {index : Nat} {s v u : State} {cid : BitVec 16} {cmd : AdminCmd}
    {k target : Fin 8} {period passes limit : Nat} {cls : Fin 4} (take : s.mayTake index)
    (count : 0 < (s.scans.look k).count) (hperiod : 1 ≤ period)
    (hv : v = (resetLimits k (commandTaken cid cmd index s)).setScan k
      ((s.scans.look k).started period passes target cls limit))
    (hu : u = complete .success 0 0 v) :
    answered (plainDone cid .success 0 0) s (settle u) ∧ headTaken index s (settle u)
      ∧ (∃ n, (settle u).scans.look k
          = ((s.scans.look k).started period passes target cls limit).admitted n)
      ∧ scansStand [k] s (settle u)
      ∧ (∀ p, (settle u).templates[p]? = (s.templates[p]?).map fun x =>
          if (s.scans.look k).first ≤ p ∧ p < (s.scans.look k).first + (s.scans.look k).count then
            { x with limitState := .unknown }
          else x)
      ∧ (settle u).control = s.control ∧ (settle u).frontEnd = s.frontEnd
      ∧ (settle u).store = s.store ∧ (settle u).intPending = s.intPending
      ∧ slotsStand [] s (settle u) ∧ sqsStand [0] s (settle u) ∧ cqsGrow [] s (settle u) := by
  have hax : v.ax = .executing { position := index, commandId := cid, cmd := cmd, work := .nothing } := by
    rw [hv]; rfl
  have hcqs : v.cqs = s.cqs := by rw [hv]; rfl
  have hua : u.aside = v.aside := by rw [hu, complete_aside]
  have grow : cqsGrow [] s u := by
    rw [hu]
    exact cqsGrow_trans (cqsGrow_of_eq hcqs) (completeWith_grow _ _ _ _ _ v)
  obtain ⟨w, aside, head, slots, sqs, cqs⟩ := settle_taken_rings (u := u) take
    ((aside_device hua).trans (by rw [hv]; rfl)) (by rw [hu, complete_slots, hv]; rfl)
    (by rw [hu, complete_sqs, hv]; rfl) grow
  have scans : ∀ j, u.scans.look j = if j = k then
      (s.scans.look k).started period passes target cls limit else s.scans.look j := fun j => by
    rw [hu, complete_scans, hv, State.setScan_scans, Table.look_put]
    rfl
  have asideV := aside.trans hua
  have countdown : ((s.scans.look k).started period passes target cls limit).countdown ≠ 0 :=
    Nat.pos_iff_ne_zero.1 hperiod
  obtain ⟨n, stepped⟩ := settle_stepped w k
  rw [scans, if_pos rfl, Scan.passEnded_inProgress (Scan.inProgress_iff.2 (.inl count)),
    Scan.expiredNow_counts fun _ => countdown] at stepped
  refine ⟨settle_completed_answered w hu hax (by rw [hcqs]) take.2.2.2.2, head, ⟨n, stepped⟩,
    scansStand_via (fun j hj => by rw [scans, if_neg (by simpa using hj)]) (settle_scansStand w),
    fun p => ?_, (aside_control asideV).trans (by rw [hv]; rfl),
    (aside_frontEnd asideV).trans (by rw [hv]; rfl), (aside_store asideV).trans (by rw [hv]; rfl),
    (aside_intPending asideV).trans (by rw [hv]; rfl), slots, sqs, cqs⟩
  rw [aside_templates asideV, hv]
  exact resetLimits_templates k (commandTaken cid cmd index s) p

/-- Settles O49. -/
theorem scanStart : Obligations.ScanStart := by
  unfold Obligations.ScanStart
  intro cid scan period passes target cls limit k index s take law hk
  subst hk
  obtain ⟨v, hv⟩ : ∃ v, v = commandTaken cid (.scanStart scan period passes target cls limit) index s :=
    ⟨_, rfl⟩
  have ran : exec (.scanStart cid scan period passes target cls limit) s
      = .next (settle (runScanStart scan period passes target cls limit v)) :=
    (act_takes take cid _ true).trans (by rw [hv]; rfl)
  have ends : ∀ {status : AdminStatus} {aux : Nat} {value : Int},
      runScanStart scan period passes target cls limit v = complete status aux value v →
      onlyAnswered index (plainDone cid status aux value) s
        (settle (runScanStart scan period passes target cls limit v)) := fun hr => by
    rw [hr, hv]
    exact completeWith_onlyAnswered take ..
  have scans : v.scans = s.scans := by rw [hv]; rfl
  have slots : v.slots = s.slots := by rw [hv]; rfl
  have cqs : v.cqs = s.cqs := by rw [hv]; rfl
  have device : v.device = s.device := by rw [hv]; rfl
  refine ⟨_, ran, fun h => ends (runScanStart_id h), fun h7 =>
    ⟨fun h => ends (runScanStart_period h7 h), fun hp bad => ends ?_, fun hp t1 t7 bad => ends ?_,
      fun hp t1 t7 c3 bad => ends ?_, fun hp t1 t7 c3 l1 l16 => ⟨fun busy => ends ?_,
        fun free ready => ⟨fun empty => ends ?_, fun loaded => ⟨fun idle => ends ?_, fun live => ?_⟩⟩⟩⟩⟩
  all_goals
    have fields := runScanStart_fields (passes := passes) (target := target) (cls := cls)
      (limit := limit) (s := v) h7 hp
    rw [scans, cqs, device] at fields
  · rw [fields, if_pos bad]
  · rw [fields, if_neg (by omega), if_pos bad]
  · rw [fields, if_neg (by omega), if_neg (by omega), if_pos bad]
  · rw [fields, if_neg (by omega), if_neg (by omega), if_neg (by omega), if_pos]
    rw [scanHasSlots_true, slots]
    rcases busy with h | h | h | h
    · exact .inl h
    · exact .inr (.inl h)
    · exact .inr (.inr (.inl h))
    · exact .inr (.inr (.inr (by rw [h]; decide)))
  all_goals
    have none : ¬ scanHasSlots v (eighth scan.toNat) = true := by
      rw [scanHasSlots_true, slots]
      rintro ⟨i, r, hr, hf⟩
      rw [free i r hr] at hf
      cases hf
  · rw [fields, if_neg (by omega), if_neg (by omega), if_neg (by omega),
      if_neg (by simp [empty, none, ready]), if_pos empty]
  · rw [fields, if_neg (by omega), if_neg (by omega), if_neg (by omega),
      if_neg (by simp [loaded, none, ready]), if_neg (by simp [loaded]), if_pos idle]
  · rw [if_neg (by omega), if_neg (by omega), if_neg (by omega),
      if_neg (by simp [loaded, none, ready]), if_neg (by simp [loaded]),
      if_neg (not_not_intro live)] at fields
    obtain ⟨-, -, lawful, -⟩ := law
    obtain ⟨-, emptyIff, -⟩ := lawful (eighth scan.toNat)
    have count : 0 < (s.scans.look (eighth scan.toNat)).count := by
      refine Nat.pos_iff_ne_zero.2 fun h => ?_
      rw [emptyIff.2 h] at loaded
      cases loaded
    rw [fields, hv]
    obtain ⟨ans, head, ⟨n, scan_⟩, rest⟩ := scanStart_succeeds (passes := passes.toNat)
      (target := eighth target.toNat) (cls := classOf cls.toNat) (limit := limit.toNat)
      (cmd := .scanStart scan period passes target cls limit) (cid := cid) take count hp rfl rfl
    exact ⟨ans, head, ⟨n, scan_.trans (Scan.started_admitted ..)⟩, rest⟩

end Sys2Proof.Machine
end

section
/-! SCAN_STOP and the end of a pass (chapter 8). -/

namespace Sys2Proof.Machine

-- Parallel elaboration of the one text reserves more memory than the check allows.
set_option Elab.async false

/-! ### A SCAN_STOP that waits (R148) -/

theorem passComplete_ax_other {j : Fin 8} {s : State} (h : s.axWork ≠ .stopping j) :
    (passComplete j s).ax = s.ax := by
  unfold passComplete
  dsimp only
  repeat' split
  · rfl
  · simp
  · rfl
  · unfold completeStop
    rw [if_neg]
    · simp
    · simpa [State.axWork] using h
  · rfl

/-- A SCAN_STOP waits while a pass of its scan is in progress. -/
theorem settle_stopping_waits {u : State} {ctx : AxCtx} {k : Fin 8}
    (w : u.device = .ready ∨ u.device = .halting ∧ u.heldBack) (hax : u.ax = .executing ctx)
    (hw : ctx.work = .stopping k) (hp : (u.scans.look k).inProgress = true) :
    (settle u).ax = u.ax := by
  have passes : ∀ (l : List (Fin 8)) (v : State), v.ax = u.ax → v.scans.look k = u.scans.look k →
      (l.foldl (fun s j => passComplete j s) v).ax = u.ax := by
    intro l
    induction l with
    | nil => exact fun _ h _ => h
    | cons j l ih =>
      intro v hv hs
      by_cases e : j = k
      · subst e
        rw [List.foldl_cons, passComplete_inProgress (by rw [hs]; exact hp)]
        exact ih v hv hs
      · have other : v.axWork ≠ .stopping j := by
          rw [axWork_executing (hv.trans hax), hw]
          simpa using Ne.symm e
        exact ih _ ((passComplete_ax_other other).trans hv)
          ((passComplete_other (Ne.symm e) v).trans hs)
  rw [settle_of_work w]
  have fence : (fenceStage u).ax = u.ax := by simp
  have pass : (passStage (fenceStage u)).ax = u.ax := passes _ _ fence (by rw [fenceStage_scans])
  have delete : (deleteSqStage (passStage (fenceStage u))).ax = u.ax := by
    rw [deleteSqStage_ax _ fun q n => ?_, pass]
    rw [axWork_executing (pass.trans hax), hw]
    simp
  have fill : (fillStage (expiryStage (deleteSqStage (passStage (fenceStage u))))).ax = u.ax := by
    simp [fillStage, delete]
  rw [writeStage_ax, adminFetchStage_ax _ (by rw [fill, hax]; simp), fill]

/-! ### A scan without a template pending (R144) -/

theorem fillOne_full {s : State} {k : Fin 8}
    (h : (s.scans.look k).count ≤ (s.scans.look k).nextTemplate) :
    (fillOne s).scans.look k = s.scans.look k := by
  unfold fillOne
  split
  · rename_i i c n _ pick
    have able := (pickSource_eligible pick).1
    unfold eligible at able
    unfold fillFrom
    split at able
    · rfl
    · rename_i j hj
      dsimp only
      split
      · have : k ≠ j := by
          rintro rfl
          unfold scanEligible at able
          simp only [Bool.and_eq_true, decide_eq_true_eq] at able
          omega
        simp [this]
      · rfl
  · rfl

theorem fills_full (n : Nat) {s : State} {k : Fin 8}
    (h : (s.scans.look k).count ≤ (s.scans.look k).nextTemplate) :
    (fills n s).scans.look k = s.scans.look k := by
  induction n generalizing s with
  | zero => rfl
  | succ n ih =>
    have one := fillOne_full h
    exact (ih (by rw [one]; exact h)).trans one

/-- A scan whose record the steps leave, without a template pending, stands as it is. -/
theorem settle_idleScan {u : State} (w : u.device = .ready ∨ u.device = .halting ∧ u.heldBack)
    {k : Fin 8} (step : ((u.scans.look k).passEnded u.device).expiredNow u.device = u.scans.look k)
    (full : (u.scans.look k).count ≤ (u.scans.look k).nextTemplate) :
    (settle u).scans.look k = u.scans.look k := by
  have before := (beforeFills_stepped u k).trans step
  have fill := fills_full 16 (s := u.beforeFills) (k := k) (by rw [before]; exact full)
  rw [settle_filled w]
  simpa using fill.trans before

/-- A scan that is LOADED stands. -/
theorem settle_loaded {u : State} (w : u.device = .ready ∨ u.device = .halting ∧ u.heldBack)
    {k : Fin 8} (h : (u.scans.look k).state = .loaded) :
    (settle u).scans.look k = u.scans.look k := by
  obtain ⟨rest, -⟩ := settle_scansStand w k (by simp)
  exact rest (by rw [h]; decide) (by rw [h]; decide)

/-! ### The end of a run (R147) -/

/-- Scan `k` leaves its run, and its SCAN_DONE joins the list of its target. -/
def runEnded (k : Fin 8) (status : ScanDoneStatus) (s : State) : State :=
  joinScanDone k status (s.setScan k (s.scans.look k).loadedNow)

/-- The SCAN_DONE of the run of scan record `sc`. -/
def Scan.doneRecord (sc : Scan) (k : Fin 8) (status : ScanDoneStatus) : ScanDone :=
  { scan := k, status := status, pass := sc.passNumber, overruns := sc.overruns,
    remaining := if sc.passLimit = 0 then 0 else sc.remaining }

section runEnded

variable {k : Fin 8} {status : ScanDoneStatus} {s : State}

theorem runEnded_scans : (runEnded k status s).scans = s.scans.put k (s.scans.look k).loadedNow := by
  simp [runEnded]

theorem runEnded_slots : (runEnded k status s).slots = s.slots := by simp [runEnded]

theorem runEnded_sqs : (runEnded k status s).sqs = s.sqs := by simp [runEnded]

theorem runEnded_ax : (runEnded k status s).ax = s.ax := by simp [runEnded]

theorem runEnded_aside : (runEnded k status s).aside = s.aside := by
  simp only [runEnded, joinScanDone_aside]
  rfl

theorem runEnded_grow : cqsGrow [] s (runEnded k status s) :=
  joinScanDone_grow k status (s.setScan k (s.scans.look k).loadedNow)

variable {c : Fin 8} (ht : (s.scans.look k).target = some c)

include ht

theorem runEnded_eq : runEnded k status s
    = joinList c (.scanDone ((s.scans.look k).doneRecord k status))
        (s.setScan k (s.scans.look k).loadedNow) := by
  simp [runEnded, joinScanDone, ht, Scan.doneRecord, Scan.loadedNow]

theorem runEnded_active (live : (s.cqs.look c).state = .active) :
    ((runEnded k status s).cqs.look c).list
      = (s.cqs.look c).list ++ [.scanDone ((s.scans.look k).doneRecord k status)] := by
  rw [runEnded_eq ht]
  simp [joinList, live]

theorem runEnded_idle (idle : (s.cqs.look c).state ≠ .active) : (runEnded k status s).cqs = s.cqs := by
  rw [runEnded_eq ht]
  simp [joinList, idle]

theorem runEnded_cq0 (hc : c ≠ 0) : (runEnded k status s).cqs.look 0 = s.cqs.look 0 := by
  rw [runEnded_eq ht]
  unfold joinList
  split
  · simp [Ne.symm hc]
  · rfl

/-- The list of the target after the event that ends the run. -/
theorem settle_runEnded {u : State} (w : u.device = .ready ∨ u.device = .halting ∧ u.heldBack)
    (hu : u.cqs.look c = (runEnded k status s).cqs.look c) :
    ((s.cqs.look c).state = .active → (s.cqs.look c).list
        ++ [.scanDone ((s.scans.look k).doneRecord k status)] <+: ((settle u).cqs.look c).list)
      ∧ ((s.cqs.look c).state ≠ .active → ((settle u).cqs.look c).list = (s.cqs.look c).list) := by
  refine ⟨fun live => ?_, fun idle => ?_⟩
  · refine cqGrows_prefix (settle_cqsGrow w c (by simp)) ?_
    rw [hu, runEnded_active ht live]
  · have same : u.cqs.look c = s.cqs.look c := by rw [hu, runEnded_idle ht idle]
    rw [settle_shut w (by rw [same]; exact idle), same]

end runEnded

/-! ### The commands (R145, R148) -/

section scanStop

variable {scan : Byte} {s : State} {sc : Scan}

theorem runScanStop_id (h : 7 < scan.toNat) : runScanStop scan s = complete .invalidField 1 0 s := by
  simp [runScanStop, h]

variable (h7 : scan.toNat ≤ 7) (hsc : s.scans.look (eighth scan.toNat) = sc)

include h7 hsc

theorem runScanStop_rest (h : sc.state ≠ .running) :
    runScanStop scan s = complete .success sc.overruns sc.passNumber s := by
  simp [runScanStop, Nat.not_lt.2 h7, hsc, h]

theorem runScanStop_inProgress (h : sc.state = .running) (hp : sc.inProgress = true) :
    runScanStop scan s = keepWork (.stopping (eighth scan.toNat)) (s.setScan (eighth scan.toNat)
      { sc with state := .stopping, counting := false }) := by
  simp [runScanStop, Nat.not_lt.2 h7, hsc, h, hp]

theorem runScanStop_between (h : sc.state = .running) (hp : sc.inProgress = false) :
    runScanStop scan s = complete .success sc.overruns sc.passNumber
      (runEnded (eighth scan.toNat) .stopped s) := by
  simp [runScanStop, Nat.not_lt.2 h7, hsc, h, hp, runEnded]

end scanStop

/-- The event of a SCAN_STOP that waits for the pass in progress. -/
theorem scanStop_waits {index : Nat} {s u : State} {cid : BitVec 16} {cmd : AdminCmd} {k : Fin 8}
    {sc : Scan} (take : s.mayTake index) (hp : sc.inProgress = true)
    (hu : u = keepWork (.stopping k) ((commandTaken cid cmd index s).setScan k
      { sc with state := .stopping, counting := false })) :
    (∃ n, (settle u).scans.look k = { sc with
        state := .stopping, counting := false, nextTemplate := sc.nextTemplate + n,
        outstanding := sc.outstanding + n })
      ∧ (settle u).ax = .executing
        { position := index, commandId := cid, cmd := cmd, work := .stopping k }
      ∧ headTaken index s (settle u) ∧ (settle u).aside = s.aside ∧ slotsStand [] s (settle u)
      ∧ scansStand [k] s (settle u) ∧ sqsStand [0] s (settle u) ∧ cqsGrow [] s (settle u) := by
  rw [keepWork_of (s := (commandTaken cid cmd index s).setScan k _) (commandTaken_ax cid cmd index s)]
    at hu
  obtain ⟨x, hx⟩ : ∃ x : Scan, x = { sc with state := .stopping, counting := false } := ⟨_, rfl⟩
  rw [← hx] at hu
  obtain ⟨w, aside, head, slots, sqs, cqs⟩ := settle_taken_rings (u := u) take (by rw [hu]; rfl)
    (by rw [hu]; rfl) (by rw [hu]; rfl) (cqsGrow_of_eq (by rw [hu]; rfl))
  have own : u.scans.look k = x := by rw [hu]; simp
  have others : ∀ j, j ∉ [k] → u.scans.look j = s.scans.look j := fun j hj => by
    rw [hu, State.setScan_scans, Table.look_put_ne _ _ _ _ (by simpa using hj)]
    rfl
  have progress : x.inProgress = true := by rw [hx]; exact hp
  have still : x.counting = true → x.countdown ≠ 0 := fun h => by
    rw [hx] at h
    cases h
  obtain ⟨n, stepped⟩ := settle_stepped w k
  rw [own, Scan.passEnded_inProgress progress, Scan.expiredNow_counts still, hx] at stepped
  have ax := settle_stopping_waits (k := k) w (by rw [hu]) rfl (by rw [own]; exact progress)
  exact ⟨⟨n, stepped⟩, ax.trans (by rw [hu]), head, aside.trans (by rw [hu]; rfl), slots,
    scansStand_via others (settle_scansStand w), sqs, cqs⟩

/-- The event of a SCAN_STOP between two passes. -/
theorem scanStop_ends {index : Nat} {s v u : State} {cid : BitVec 16} {cmd : AdminCmd} {k c : Fin 8}
    {sc : Scan} (take : s.mayTake index) (hsc : s.scans.look k = sc) (ht : sc.target = some c)
    (hc : c ≠ 0) (hv : v = runEnded k .stopped (commandTaken cid cmd index s))
    (hu : u = complete .success sc.overruns sc.passNumber v) :
    (settle u).scans.look k = { sc with state := .loaded, counting := false }
      ∧ ((s.cqs.look c).state = .active → (s.cqs.look c).list
          ++ [.scanDone (sc.doneRecord k .stopped)] <+: ((settle u).cqs.look c).list)
      ∧ ((s.cqs.look c).state ≠ .active → ((settle u).cqs.look c).list = (s.cqs.look c).list)
      ∧ answered (plainDone cid .success sc.overruns sc.passNumber) s (settle u)
      ∧ headTaken index s (settle u) ∧ (settle u).aside = s.aside ∧ slotsStand [] s (settle u)
      ∧ scansStand [k] s (settle u) ∧ sqsStand [0] s (settle u) ∧ cqsGrow [] s (settle u) := by
  have target : ((commandTaken cid cmd index s).scans.look k).target = some c := by
    rw [commandTaken_scans, hsc, ht]
  have hax : v.ax = .executing { position := index, commandId := cid, cmd := cmd, work := .nothing } := by
    rw [hv, runEnded_ax]; rfl
  have h0 : v.cqs.look 0 = s.cqs.look 0 := by rw [hv, runEnded_cq0 target hc]; rfl
  have hua : u.aside = s.aside := by rw [hu, complete_aside, hv, runEnded_aside]; rfl
  have grow : cqsGrow [] s u := by
    have one : cqsGrow [] s v := by rw [hv]; exact runEnded_grow (s := commandTaken cid cmd index s)
    rw [hu]
    exact cqsGrow_trans one (completeWith_grow _ _ _ _ _ v)
  obtain ⟨w, aside, head, slots, sqs, cqs⟩ := settle_taken_rings (u := u) take (aside_device hua)
    (by rw [hu, complete_slots, hv, runEnded_slots]; rfl)
    (by rw [hu, complete_sqs, hv, runEnded_sqs]; rfl) grow
  have scans : u.scans = s.scans.put k sc.loadedNow := by
    rw [hu, complete_scans, hv, runEnded_scans, commandTaken_scans, hsc]
  have own : u.scans.look k = sc.loadedNow := by rw [scans, Table.look_put_same]
  obtain ⟨live, idle⟩ := settle_runEnded (status := .stopped) target w (by
    rw [hu, complete, completeWith_ring_ne hc, hv])
  rw [commandTaken_scans, hsc] at live
  refine ⟨?_, live, idle, settle_completed_answered w hu hax h0 take.2.2.2.2, head, aside.trans hua,
    slots, scansStand_via (fun j hj => ?_) (settle_scansStand w), sqs, cqs⟩
  · rw [settle_loaded w (by rw [own]; rfl), own]
    rfl
  · rw [scans, Table.look_put_ne _ _ _ _ (by simpa using hj)]

section passComplete

variable {k : Fin 8} {s : State} {sc : Scan} (hsc : s.scans.look k = sc) (hp : sc.inProgress = false)

include hsc hp

theorem passComplete_goesOn (h : sc.state = .running)
    (hr : s.device = .halting ∨ sc.passLimit = 0 ∨ sc.remaining ≠ 0) : passComplete k s = s := by
  have : ¬ (s.device ≠ .halting ∧ sc.passLimit ≠ 0 ∧ sc.remaining = 0) := by
    rintro ⟨hd, hl, hm⟩
    rcases hr with h1 | h1 | h1
    · exact hd h1
    · exact hl h1
    · exact h1 hm
  simp only [passComplete, hsc, hp, h, if_neg this, Bool.false_eq_true, if_false]

theorem passComplete_last (h : sc.state = .running) (hd : s.device ≠ .halting)
    (hl : sc.passLimit ≠ 0) (hm : sc.remaining = 0) : passComplete k s = runEnded k .completed s := by
  simp [passComplete, hsc, hp, h, hd, hl, hm, runEnded]

theorem passComplete_stopping (h : sc.state = .stopping) :
    passComplete k s = completeStop k (runEnded k .stopped s) := by
  simp [passComplete, hsc, hp, h, runEnded]

end passComplete

/-- What the event of a pass that ends its run leaves of the scans, the rings and all aside. -/
theorem act_runEnds {f : State → State} {s u : State} {k c : Fin 8} {sc : Scan}
    {status : ScanDoneStatus} (work : s.atWork) (hsc : s.scans.look k = sc) (ht : sc.target = some c)
    (hf : f s = u) (haside : u.aside = (runEnded k status s).aside)
    (hslots : u.slots = (runEnded k status s).slots) (hscans : u.scans = (runEnded k status s).scans)
    (hsqs : u.sqs = (runEnded k status s).sqs)
    (ring : u.cqs.look c = (runEnded k status s).cqs.look c)
    (grow : cqsGrow [] (runEnded k status s) u) :
    act f s = .next (settle u) ∧ (u.device = .ready ∨ u.device = .halting ∧ u.heldBack)
      ∧ (settle u).scans.look k = { sc with state := .loaded, counting := false }
      ∧ (((s.cqs.look c).state = .active → (s.cqs.look c).list
          ++ [.scanDone (sc.doneRecord k status)] <+: ((settle u).cqs.look c).list)
        ∧ ((s.cqs.look c).state ≠ .active → ((settle u).cqs.look c).list = (s.cqs.look c).list))
      ∧ (settle u).aside = s.aside ∧ slotsStand [] s (settle u) ∧ scansStand [k] s (settle u)
      ∧ sqsStand [] s (settle u) ∧ cqsGrow [] s (settle u) := by
  have hua := haside.trans runEnded_aside
  have scans := hscans.trans runEnded_scans
  obtain ⟨ran, w, aside, slots, others, sqs, cqs⟩ := act_rings work hf (aside_device hua)
    (hslots.trans runEnded_slots) (l := [k])
    (fun j hj => by rw [scans, Table.look_put_ne _ _ _ _ (by simpa using hj)])
    (hsqs.trans runEnded_sqs) (cqsGrow_trans runEnded_grow grow)
  have own : u.scans.look k = sc.loadedNow := by rw [scans, Table.look_put_same, hsc]
  obtain ⟨live, idle⟩ := settle_runEnded (k := k) (s := s) (by rw [hsc, ht]) w ring
  rw [hsc] at live
  refine ⟨ran, w, ?_, ⟨live, idle⟩, aside.trans hua, slots, others, sqs, cqs⟩
  rw [settle_loaded w (by rw [own]; rfl), own]
  rfl

/-- Settles O50. -/
theorem scanStopAndPassEnd : Obligations.ScanStopAndPassEnd := by
  unfold Obligations.ScanStopAndPassEnd
  intro cid scan k c sc s hk hsc hc hcq
  subst hk
  refine ⟨fun index take => ?_, fun work past idle ht => ?_⟩
  · obtain ⟨v, hv⟩ : ∃ v, v = commandTaken cid (.scanStop scan) index s := ⟨_, rfl⟩
    have ran : exec (.scanStop cid scan) s = .next (settle (runScanStop scan v)) :=
      (act_takes take cid _ true).trans (by rw [hv]; rfl)
    have ends : ∀ {status : AdminStatus} {aux : Nat} {value : Int},
        runScanStop scan v = complete status aux value v →
        onlyAnswered index (plainDone cid status aux value) s (settle (runScanStop scan v)) :=
      fun hr => by
        rw [hr, hv]
        exact completeWith_onlyAnswered take ..
    have hvsc : v.scans.look (eighth scan.toNat) = sc := by rw [hv]; exact hsc
    refine ⟨_, ran, fun h => ends (runScanStop_id h), fun h7 h => ends (runScanStop_rest h7 hvsc h),
      fun h7 run progress => ?_, fun h7 run past idle ht => ?_⟩
    · have hp := Scan.inProgress_iff.2 progress
      rw [runScanStop_inProgress h7 hvsc run hp, hv]
      exact scanStop_waits take hp rfl
    · rw [runScanStop_between h7 hvsc run (Scan.inProgress_false past idle), hv]
      exact scanStop_ends take hsc ht hc rfl rfl
  have hp := Scan.inProgress_false past idle
  refine ⟨fun run more => ?_, fun run ready limited last => ?_, fun ctx stop hax hw => ?_⟩
  · have goes : s.device = .halting ∨ sc.passLimit = 0 ∨ sc.remaining ≠ 0 := more.imp_right (·.1)
    obtain ⟨ranS, w, aside, slots, scans, sqs, cqs⟩ := act_bare work
      (passComplete_goesOn hsc hp run goes) rfl rfl rfl rfl (cqsGrow_of_eq rfl)
    refine ⟨_, ranS, ?_, aside, slots, scans, sqs, cqs⟩
    rw [settle_idleScan w ?_ (by rw [hsc]; exact past), hsc]
    rw [hsc, Scan.passEnded_goesOn (by rw [run]; decide) goes]
    rcases more with halting | ⟨-, counts⟩
    · simp [Scan.expiredNow, halting]
    · exact Scan.expiredNow_counts counts
  · obtain ⟨ranS, -, scan_, list, rest⟩ := act_runEnds work hsc ht
      (passComplete_last hsc hp run (by rw [ready]; decide) limited last) rfl rfl rfl rfl rfl
      (cqsGrow_of_eq rfl)
    have done : sc.doneRecord (eighth scan.toNat) .completed
        = { scan := eighth scan.toNat, status := .completed, pass := sc.passNumber,
            overruns := sc.overruns, remaining := 0 } := by simp [Scan.doneRecord, limited, last]
    rw [done] at list
    exact ⟨_, ranS, scan_, list.1, list.2, rest⟩
  · obtain ⟨v, hv⟩ : ∃ v, v = runEnded (eighth scan.toNat) .stopped s := ⟨_, rfl⟩
    have vax : v.ax = .executing ctx := by rw [hv, runEnded_ax, hax]
    have overruns : (v.scans.look (eighth scan.toNat)).overruns = sc.overruns
        ∧ (v.scans.look (eighth scan.toNat)).passNumber = sc.passNumber := by
      rw [hv, runEnded_scans, Table.look_put_same, hsc]
      exact ⟨rfl, rfl⟩
    have stops : completeStop (eighth scan.toNat) v
        = complete .success sc.overruns sc.passNumber v := by
      rw [completeStop, if_pos ((axWork_executing vax).trans hw), overruns.1, overruns.2]
    obtain ⟨u, hu⟩ : ∃ u, u = complete .success sc.overruns sc.passNumber v := ⟨_, rfl⟩
    have hf : passComplete (eighth scan.toNat) s = u := by
      rw [passComplete_stopping hsc hp stop, ← hv, stops, hu]
    obtain ⟨ranS, w, scan_, list, rest⟩ := act_runEnds (status := .stopped) work hsc ht hf
      (by rw [hu, complete_aside, hv]) (by rw [hu, complete_slots, hv]) (by rw [hu, complete_scans, hv])
      (by rw [hu, complete_sqs, hv]) (by rw [hu, complete, completeWith_ring_ne hc, hv])
      (by rw [hu, ← hv]; exact completeWith_grow _ _ _ _ _ v)
    have h0 : v.cqs.look 0 = s.cqs.look 0 := by
      rw [hv, runEnded_cq0 (by rw [hsc, ht]) hc]
    exact ⟨_, ranS, scan_, list.1, list.2, settle_completed_answered w hu vax h0 hcq, rest⟩

end Sys2Proof.Machine
end

section
/-! SCAN_LOAD and template memory (chapter 8). -/

namespace Sys2Proof.Machine

-- Parallel elaboration of the one text reserves more memory than the check allows.
set_option Elab.async false

/-! ### Places of the repacked memory (R136, R140) -/

/-- The entries of one of the eight lists stand behind those of the lists below it. -/
theorem flatMap_place {α : Type} (g : Fin 8 → List α) (j : Fin 8) {p : Nat} (h : p < (g j).length) :
    (allEight.flatMap g)[((allEight.filter fun i => i.val < j.val).map fun i => (g i).length).sum + p]?
      = (g j)[p]? := by
  have split : ∀ j : Fin 8, allEight
      = (allEight.filter fun i => i.val < j.val) ++ j :: allEight.drop (j.val + 1) := by decide
  have below : ((allEight.filter fun i => i.val < j.val).flatMap g).length
      = ((allEight.filter fun i => i.val < j.val).map fun i => (g i).length).sum :=
    List.length_flatMap
  have whole := congrArg (List.flatMap g) (split j)
  rw [List.flatMap_append, List.flatMap_cons] at whole
  rw [whole, ← below, List.getElem?_append_right (Nat.le_add_right _ _), Nat.add_sub_cancel_left,
    List.getElem?_append_left h]

theorem scanTemplates_place {s : State} {j : Fin 8} {p : Nat} (h : p < (s.scans.look j).count) :
    (scanTemplates s j)[p]? = s.templates[(s.scans.look j).first + p]? := by
  simp [scanTemplates, h]

theorem loadScan_templates_eq (k : Fin 8) (new : List Template) (s : State) :
    (loadScan k new s).templates = allEight.flatMap (replacedTemplates s k new) := rfl

/-- What a load leaves of the scans and of their templates. -/
theorem loadScan_effect {s : State} (law : ScanLaw s) (k : Fin 8) (new : List Template) :
    (∃ first, (loadScan k new s).scans.look k = { s.scans.look k with
        state := if new.isEmpty then .empty else .loaded, first := first, count := new.length,
        nextTemplate := new.length })
      ∧ (∀ p, p < new.length → (loadScan k new s).templates[((loadScan k new s).scans.look k).first + p]?
          = new[p]?)
      ∧ ∀ j, j ≠ k → (∃ first, (loadScan k new s).scans.look j = { s.scans.look j with first := first })
        ∧ ∀ p, p < (s.scans.look j).count →
          (loadScan k new s).templates[((loadScan k new s).scans.look j).first + p]?
            = s.templates[(s.scans.look j).first + p]? := by
  have own := loadScan_look s k new k
  rw [if_pos rfl] at own
  refine ⟨⟨_, own⟩, fun p hp => ?_, fun j hj => ?_⟩
  · have some_ : new.isEmpty = false := by
      cases new with
      | nil => simp at hp
      | cons _ _ => rfl
    have length : (replacedTemplates s k new k) = new := by simp [replacedTemplates]
    rw [own, loadScan_templates_eq]
    dsimp only
    rw [some_, if_neg Bool.false_ne_true, repackedFirst, flatMap_place _ _ (by rwa [length]), length]
  · have other := loadScan_look s k new j
    rw [if_neg hj] at other
    refine ⟨⟨_, other⟩, fun p hp => ?_⟩
    have list : replacedTemplates s k new j = scanTemplates s j := by simp [replacedTemplates, hj]
    have length : p < (replacedTemplates s k new j).length := by
      rw [list, scanTemplates_length law]
      exact hp
    rw [other, loadScan_templates_eq]
    dsimp only
    rw [if_pos (Nat.zero_lt_of_lt hp), repackedFirst, flatMap_place _ _ length, list,
      scanTemplates_place hp]

/-- What a load leaves of everything else. -/
theorem loadScan_keeps (k : Fin 8) (new : List Template) (s : State) : loadScan k new s = { s with
    templates := (loadScan k new s).templates, scans := (loadScan k new s).scans } := rfl

/-! ### The scans after the event of a load -/

/-- The loaded or emptied scan, the other scans and their templates, after the event. -/
theorem settle_loadScan {k : Fin 8} {new : List Template} {s v u : State} (law : ScanLaw s)
    (hvs : v.scans = s.scans) (hvt : v.templates = s.templates)
    (w : u.device = .ready ∨ u.device = .halting ∧ u.heldBack)
    (hscans : u.scans = (loadScan k new v).scans)
    (htemps : (settle u).templates = (loadScan k new v).templates) :
    (∃ next, (settle u).scans.look k = { s.scans.look k with
        state := if new.isEmpty then .empty else .loaded, first := ((settle u).scans.look k).first,
        count := new.length, nextTemplate := next })
      ∧ (∀ p, p < new.length → (settle u).templates[((settle u).scans.look k).first + p]? = new[p]?)
      ∧ ∀ j, j ≠ k → scanStands { s.scans.look j with first := ((settle u).scans.look j).first }
          ((settle u).scans.look j)
        ∧ ∀ p, p < (s.scans.look j).count →
          (settle u).templates[((settle u).scans.look j).first + p]?
            = s.templates[(s.scans.look j).first + p]? := by
  have same : (loadScan k new v).scans = (loadScan k new s).scans
      ∧ (loadScan k new v).templates = (loadScan k new s).templates := by
    have replaced : replacedTemplates v k new = replacedTemplates s k new := funext fun j => by
      simp only [replacedTemplates, scanTemplates, hvs, hvt]
    simp only [loadScan, repack, repackedFirst, replaced, hvs, State.setScan_scans,
      State.setScan_templates, and_self]
  rw [same.1] at hscans
  rw [same.2] at htemps
  obtain ⟨⟨first, own⟩, places, others⟩ := loadScan_effect law k new
  have stands : (settle u).scans.look k = u.scans.look k := by
    obtain ⟨rest, -⟩ := settle_scansStand w k (by simp)
    rw [hscans, own] at rest ⊢
    cases new <;> exact rest (by simp) (by simp)
  refine ⟨⟨new.length, ?_⟩, fun p hp => ?_, fun j hj => ?_⟩
  · rw [stands, hscans, own]
  · rw [htemps, stands, hscans]
    exact places p hp
  · obtain ⟨⟨firstJ, other⟩, placesJ⟩ := others j hj
    have stand := settle_scansStand w j (by simp)
    have first_ : ((settle u).scans.look j).first = (u.scans.look j).first := by
      obtain ⟨-, -, keeps, -⟩ := stand
      rw [keeps]
    refine ⟨?_, fun p hp => ?_⟩
    · rw [first_, hscans, other]
      rw [hscans, other] at stand
      exact stand
    · rw [htemps, first_, hscans]
      exact placesJ p hp

/-! ### The checks of SCAN_LOAD (R139, R140) -/

theorem freePlaces_eq {s : State} (law : ScanLaw s) : freePlaces s = 128 - s.templates.length := by
  rw [freePlaces, law.1]

section scanLoad

variable {scan count : Byte} {addr : Word} {s : State}

theorem runScanLoad_id (h : 7 < scan.toNat) :
    runScanLoad scan count addr s = complete .invalidField 1 0 s := by simp [runScanLoad, h]

/-- The checks of the count and of the scan, and what follows them. -/
theorem runScanLoad_valid (h7 : scan.toNat ≤ 7) : runScanLoad scan count addr s =
    if 32 < count.toNat then complete .invalidField 2 0 s
    else if ¬ ((s.scans.look (eighth scan.toNat)).state = .empty
        ∨ (s.scans.look (eighth scan.toNat)).state = .loaded)
        ∨ scanHasSlots s (eighth scan.toNat) = true then complete .busy 0 0 s
    else if freePlaces s + (s.scans.look (eighth scan.toNat)).count < count.toNat then
      complete .invalidField 2 0 s
    else if count.toNat = 0 then complete .success 0 0 (loadScan (eighth scan.toNat) [] s)
    else keepWork (.scanLoadDma (eighth scan.toNat) count.toNat addr) s := by
  unfold runScanLoad
  dsimp only
  rw [if_neg (Nat.not_lt.2 h7)]

end scanLoad

theorem firstFailingTemplate_some {es : List Entry} {i check : Nat} {e : Entry} (hi : es[i]? = some e)
    (bad : failingTemplateCheck (entryTemplate e) = some check)
    (first : ∀ j f, j < i → es[j]? = some f → failingTemplateCheck (entryTemplate f) = none) (n : Nat) :
    firstFailingTemplate n (es.map entryTemplate) = some (n + i, check) := by
  induction es generalizing i n with
  | nil => simp at hi
  | cons f es ih =>
    cases i with
    | zero =>
      simp only [List.getElem?_cons_zero, Option.some.injEq] at hi
      subst hi
      simp [firstFailingTemplate, bad]
    | succ i =>
      have good := first 0 f (Nat.succ_pos i) rfl
      simp only [List.map_cons, firstFailingTemplate, good]
      rw [ih (by simpa using hi) (fun j f hj hf => first (j + 1) f (by omega) (by simpa using hf)) (n + 1)]
      congr 2
      omega

theorem firstFailingTemplate_all {es : List Entry}
    (good : ∀ e, e ∈ es → failingTemplateCheck (entryTemplate e) = none) (n : Nat) :
    firstFailingTemplate n (es.map entryTemplate) = none := by
  induction es generalizing n with
  | nil => rfl
  | cons f es ih =>
    have head := good f (by simp)
    simp only [List.map_cons, firstFailingTemplate, head]
    exact ih (fun e he => good e (List.mem_cons_of_mem _ he)) (n + 1)

/-- The event of a SCAN_LOAD of no templates. -/
theorem scanLoad_empties {index : Nat} {s u : State} {cid : BitVec 16} {cmd : AdminCmd} {k : Fin 8}
    (take : s.mayTake index) (law : ScanLaw s)
    (hu : u = complete .success 0 0 (loadScan k [] (commandTaken cid cmd index s))) :
    answered (plainDone cid .success 0 0) s (settle u) ∧ headTaken index s (settle u)
      ∧ (settle u).scans.look k = { s.scans.look k with
          state := .empty, first := ((settle u).scans.look k).first, count := 0,
          nextTemplate := ((settle u).scans.look k).nextTemplate }
      ∧ (∀ j, j ≠ k → scanStands { s.scans.look j with first := ((settle u).scans.look j).first }
            ((settle u).scans.look j)
          ∧ ∀ p, p < (s.scans.look j).count → (settle u).templates[((settle u).scans.look j).first + p]?
              = s.templates[(s.scans.look j).first + p]?)
      ∧ (settle u).control = s.control ∧ (settle u).frontEnd = s.frontEnd
      ∧ (settle u).store = s.store ∧ (settle u).intPending = s.intPending
      ∧ slotsStand [] s (settle u) ∧ sqsStand [0] s (settle u) ∧ cqsGrow [] s (settle u) := by
  obtain ⟨v, hv⟩ : ∃ v, v = loadScan k [] (commandTaken cid cmd index s) := ⟨_, rfl⟩
  have keeps := hv.trans (loadScan_keeps ..)
  rw [← hv] at hu
  have hcqs : v.cqs = s.cqs := by rw [keeps]; rfl
  have hax : v.ax = .executing { position := index, commandId := cid, cmd := cmd, work := .nothing } := by
    rw [keeps]; rfl
  have hua : u.aside = v.aside := by rw [hu, complete_aside]
  obtain ⟨w, aside, head, slots, sqs, cqs⟩ := settle_taken_rings (u := u) take
    ((aside_device hua).trans (by rw [keeps]; rfl)) (by rw [hu, complete_slots, keeps]; rfl)
    (by rw [hu, complete_sqs, keeps]; rfl)
    (by rw [hu]; exact cqsGrow_trans (cqsGrow_of_eq hcqs) (completeWith_grow _ _ _ _ _ v))
  have asideV := aside.trans hua
  obtain ⟨⟨next, own⟩, -, others⟩ := settle_loadScan (k := k) (new := []) law
    (commandTaken_scans cid cmd index s) rfl w (by rw [hu, complete_scans, hv])
    ((aside_templates asideV).trans (by rw [hv]))
  refine ⟨settle_completed_answered w hu hax (by rw [hcqs]) take.2.2.2.2, head, ?_, others,
    (aside_control asideV).trans (by rw [keeps]; rfl),
    (aside_frontEnd asideV).trans (by rw [keeps]; rfl),
    (aside_store asideV).trans (by rw [keeps]; rfl),
    (aside_intPending asideV).trans (by rw [keeps]; rfl), slots, sqs, cqs⟩
  have : ((settle u).scans.look k).nextTemplate = next := by rw [own]
  rw [this]
  exact own

/-! ### The end of the DMA read (R140) -/

section scanLoadDone

variable {s : State} {ctx : AxCtx} {k : Fin 8} {n : Nat} {addr : Word} (hax : s.ax = .executing ctx)
  (hw : ctx.work = .scanLoadDma k n addr)

include hax hw

theorem scanLoadDone_none : scanLoadDone none s = complete .busError 0 0 s := by
  have : s.axWork = .scanLoadDma k n addr := (axWork_executing hax).trans hw
  simp [scanLoadDone, this]

theorem scanLoadDone_failing {es : List Entry} (hn : es.length = n) {i check : Nat}
    (h : firstFailingTemplate 0 (es.map entryTemplate) = some (i, check)) :
    scanLoadDone (some es) s = complete .invalidField i check s := by
  have : s.axWork = .scanLoadDma k n addr := (axWork_executing hax).trans hw
  simp [scanLoadDone, this, hn, h]

theorem scanLoadDone_valid {es : List Entry} (hn : es.length = n)
    (h : firstFailingTemplate 0 (es.map entryTemplate) = none) :
    scanLoadDone (some es) s = complete .success 0 n (loadScan k (es.map entryTemplate) s) := by
  have : s.axWork = .scanLoadDma k n addr := (axWork_executing hax).trans hw
  simp [scanLoadDone, this, hn, h]

end scanLoadDone

/-- Settles O48. -/
theorem scanLoad : Obligations.ScanLoad := by
  unfold Obligations.ScanLoad
  refine ⟨fun cid scan count addr k index s take law hk => ?_,
    fun k n addr ctx s work law hax hw hcq hn => ⟨?_, fun es hes => ?_⟩⟩
  · subst hk
    obtain ⟨v, hv⟩ : ∃ v, v = commandTaken cid (.scanLoad scan count addr) index s := ⟨_, rfl⟩
    have ran : exec (.scanLoad cid scan count addr) s = .next (settle (runScanLoad scan count addr v)) :=
      (act_takes take cid _ true).trans (by rw [hv]; rfl)
    have ends : ∀ {status : AdminStatus} {aux : Nat} {value : Int},
        runScanLoad scan count addr v = complete status aux value v →
        onlyAnswered index (plainDone cid status aux value) s (settle (runScanLoad scan count addr v)) :=
      fun hr => by
        rw [hr, hv]
        exact completeWith_onlyAnswered take ..
    have scans : v.scans = s.scans := by rw [hv]; rfl
    have slots : v.slots = s.slots := by rw [hv]; rfl
    have places : freePlaces v = 128 - s.templates.length := by
      rw [← freePlaces_eq law, hv]; rfl
    obtain ⟨-, most, -⟩ := id law
    refine ⟨_, ran, fun h => ends (runScanLoad_id h), fun h7 h => ends ?_, fun h7 h32 =>
      ⟨fun busy => ends ?_, fun rest free => ?_⟩⟩
    all_goals
      have valid := runScanLoad_valid (count := count) (addr := addr) (s := v) h7
      rw [scans, places] at valid
    · rw [valid, if_pos h]
    · rw [valid, if_neg (by omega), if_pos]
      rw [scanHasSlots_true, slots]
      rcases busy with h | h | h
      · exact .inl (by simp [h])
      · exact .inl (by simp [h])
      · exact .inr h
    have none : ¬ scanHasSlots v (eighth scan.toNat) = true := by
      rw [scanHasSlots_true, slots]
      rintro ⟨i, r, hr, hf⟩
      rw [free i r hr] at hf
      cases hf
    have quiet : ¬ (¬ ((s.scans.look (eighth scan.toNat)).state = .empty
        ∨ (s.scans.look (eighth scan.toNat)).state = .loaded)
        ∨ scanHasSlots v (eighth scan.toNat) = true) := by
      rintro (h | h)
      · exact h rest
      · exact none h
    rw [if_neg (by omega), if_neg quiet] at valid
    refine ⟨fun full => ends ?_, fun h0 => ?_, fun h1 room => ?_⟩
    · rw [valid, if_pos (by omega)]
    · rw [valid, if_neg (by omega), if_pos h0, hv]
      exact scanLoad_empties take law rfl
    · rw [if_neg (by omega), if_neg (by omega)] at valid
      rw [valid, hv]
      obtain ⟨ax, head, aside, slotsT, scansT, sqsT, cqsT⟩ := settle_waits (cmd := .scanLoad scan count addr)
        take rfl (cid := cid) (work := .scanLoadDma (eighth scan.toNat) count.toNat addr) (by simp)
        (by simp)
      have stays := scansT (eighth scan.toNat) (by simp)
      refine ⟨ax, head, aside, ?_, scansT, slotsT, sqsT, cqsT⟩
      obtain ⟨stands, -⟩ := stays
      rcases rest with h | h <;> exact stands (by rw [h]; decide) (by rw [h]; decide)
  all_goals
    obtain ⟨-, -, -, waits⟩ := id law
    obtain ⟨rest, -⟩ := waits k n addr ((axWork_executing hax).trans hw)
    have stands : ∀ t, scansStand [] s t → t.scans.look k = s.scans.look k := fun t h => by
      obtain ⟨stand, -⟩ := h k (by simp)
      rcases rest with h | h <;> exact stand (by rw [h]; decide) (by rw [h]; decide)
  · obtain ⟨t, ran, aside, slots, scans, sqs, cqs, ans⟩ := act_completes work hax hcq
      (scanLoadDone_none hax hw) rfl rfl rfl rfl rfl rfl
    exact ⟨t, ran, aside, slots, sqs, cqs, stands t scans, scans, ans⟩
  rcases first : firstFailingTemplate 0 (es.map entryTemplate) with _ | ⟨i0, check0⟩
  · obtain ⟨v, hv⟩ : ∃ v, v = loadScan k (es.map entryTemplate) s := ⟨_, rfl⟩
    have keeps := hv.trans (loadScan_keeps ..)
    obtain ⟨u, hu⟩ : ∃ u, u = complete .success 0 n v := ⟨_, rfl⟩
    have hf : scanLoadDone (some es) s = u := by rw [scanLoadDone_valid hax hw hes first, hu, hv]
    have hua : u.aside = v.aside := by rw [hu, complete_aside]
    have hcqs : v.cqs = s.cqs := by rw [keeps]
    obtain ⟨ran, w, aside, slots, -, sqs, cqs⟩ := act_rings work hf (l := allEight)
      ((aside_device hua).trans (by rw [keeps])) (by rw [hu, complete_slots, keeps])
      (fun j hj => absurd (mem_allEight j) hj) (by rw [hu, complete_sqs, keeps])
      (by rw [hu]; exact cqsGrow_trans (cqsGrow_of_eq hcqs) (completeWith_grow _ _ _ _ _ v))
    have asideV := aside.trans hua
    obtain ⟨⟨next, own⟩, places, others⟩ := settle_loadScan (k := k) (new := es.map entryTemplate) law
      rfl rfl w (by rw [hu, complete_scans, hv]) ((aside_templates asideV).trans (by rw [hv]))
    have some_ : (es.map entryTemplate).isEmpty = false := by
      cases es with
      | nil => simp at hes; omega
      | cons _ _ => rfl
    rw [List.length_map, hes] at own places
    refine ⟨_, ran, slots, sqs, cqs, (aside_control asideV).trans (by rw [keeps]; rfl),
      (aside_frontEnd asideV).trans (by rw [keeps]; rfl), (aside_store asideV).trans (by rw [keeps]; rfl),
      (aside_intPending asideV).trans (by rw [keeps]), fun i e check hi bad before => ?_,
      fun _ => ⟨?_, fun _ _ => rfl, fun p hp => ?_, others, ?_⟩⟩
    · rw [firstFailingTemplate_some hi bad before 0] at first
      cases first
    · have hnext : ((settle u).scans.look k).nextTemplate = next := by rw [own]
      rw [hnext]
      rw [some_] at own
      exact own
    · rw [places p hp, List.getElem?_map]
    · exact settle_completed_answered w hu (by rw [keeps]; exact hax) (by rw [hcqs]) hcq
  · obtain ⟨t, ran, aside, slots, scans, sqs, cqs, ans⟩ := act_completes work hax hcq
      (scanLoadDone_failing hax hw hes first) rfl rfl rfl rfl rfl rfl
    refine ⟨t, ran, slots, sqs, cqs, aside_control aside, aside_frontEnd aside, aside_store aside,
      aside_intPending aside, fun i e check hi bad before => ?_, fun good => ?_⟩
    · rw [firstFailingTemplate_some hi bad before 0, Option.some.injEq, Prod.mk.injEq, Nat.zero_add]
        at first
      obtain ⟨rfl, rfl⟩ := first
      exact ⟨aside_templates aside, stands t scans, scans, ans⟩
    · rw [firstFailingTemplate_all good] at first
      cases first

end Sys2Proof.Machine
end

section
/-! An examination to its end: its order, its grants one after the other, and what stands of the first
grant when the last has been made (section 3.3). -/

namespace Sys2Proof.Machine

-- Parallel elaboration of the one text reserves more memory than the check allows.
set_option Elab.async false

/-! ### Examination order (R51) -/

theorem mem_examOrder {s : State} {i : Fin 16} :
    i ∈ examOrder s ↔ i ∈ s.age ∧ ∃ r, s.slots.look i = some r ∧ r.state = .waiting := by
  constructor
  · intro h
    refine ⟨?_, waiting_of_examOrder h⟩
    obtain ⟨c, -, h⟩ := List.mem_flatMap.1 h
    exact (List.mem_filter.1 h).1
  · rintro ⟨aged, r, hr, waits⟩
    refine List.mem_flatMap.2 ⟨r.cls, ?_, List.mem_filter.2 ⟨aged, ?_⟩⟩
    · generalize r.cls = c
      revert c
      decide
    · simp [slotMeets_some hr, SlotRec.waitsInClass, waits]

/-- Slot `i` stands before slot `j` by class and age. -/
def examBefore (s : State) (i j : Fin 16) : Prop :=
  ∃ x y, s.slots.look i = some x ∧ s.slots.look j = some y
    ∧ (x.cls < y.cls ∨ x.cls = y.cls ∧ s.age.idxOf i < s.age.idxOf j)

theorem examBefore_iff {s : State} {i j : Fin 16} {x y : SlotRec} (hx : s.slots.look i = some x)
    (hy : s.slots.look j = some y) : examBefore s i j ↔
      x.cls < y.cls ∨ x.cls = y.cls ∧ s.age.idxOf i < s.age.idxOf j := by
  simp [examBefore, hx, hy]

theorem examBefore_asymm {s : State} {i j : Fin 16} (h : examBefore s i j) : ¬ examBefore s j i := by
  obtain ⟨x, y, hx, hy, h⟩ := h
  rw [examBefore_iff hy hx]
  omega

/-- The position of a slot in age order grows along it. -/
theorem idxOf_pairwise {l : List (Fin 16)} (h : l.Nodup) :
    l.Pairwise fun i j => l.idxOf i < l.idxOf j := by
  rw [List.pairwise_iff_getElem]
  intro a b ha hb lt
  rwa [h.idxOf_getElem, h.idxOf_getElem]

theorem examOrder_pairwise {s : State} (h : s.age.Nodup) : (examOrder s).Pairwise (examBefore s) := by
  have inClass : ∀ c i, i ∈ s.age.filter (s.slotMeets (SlotRec.waitsInClass c)) →
      ∃ r, s.slots.look i = some r ∧ r.cls = c := fun c i hi => by
    have meets := (List.mem_filter.1 hi).2
    cases hr : s.slots.look i with
    | none => simp [slotMeets_none hr] at meets
    | some r => exact ⟨r, rfl, beq_iff_eq.1 (Bool.and_eq_true_iff.1 (slotMeets_some hr _ ▸ meets)).2⟩
  refine List.pairwise_flatMap.2 ⟨fun c _ => ?_, ?_⟩
  · refine ((idxOf_pairwise h).filter _).imp_of_mem fun {i j} hi hj lt => ?_
    obtain ⟨x, hx, ex⟩ := inClass c i hi
    obtain ⟨y, hy, ey⟩ := inClass c j hj
    exact ⟨x, y, hx, hy, .inr ⟨ex.trans ey.symm, lt⟩⟩
  · have sorted : allClasses.Pairwise (· < ·) := by decide
    refine sorted.imp fun {c d} lt i hi j hj => ?_
    obtain ⟨x, hx, ex⟩ := inClass c i hi
    obtain ⟨y, hy, ey⟩ := inClass d j hj
    exact ⟨x, y, hx, hy, .inl (by rw [ex, ey]; exact lt)⟩

theorem examOrder_nodup {s : State} (h : s.age.Nodup) : (examOrder s).Nodup :=
  (examOrder_pairwise h).imp fun {i j} before (e : i = j) => by
    subst e
    exact examBefore_asymm before before

/-- Of two slots in examination order, the one that stands first by class and age comes first. -/
theorem examOrder_idxOf {s : State} {i j : Fin 16} (h : s.age.Nodup) (hi : i ∈ examOrder s)
    (hj : j ∈ examOrder s) :
    (examOrder s).idxOf i < (examOrder s).idxOf j ↔ examBefore s i j := by
  have forward : ∀ {i j}, i ∈ examOrder s → j ∈ examOrder s →
      (examOrder s).idxOf i < (examOrder s).idxOf j → examBefore s i j := fun {i j} hi hj lt => by
    have := List.pairwise_iff_getElem.1 (examOrder_pairwise h) _ _ (List.idxOf_lt_length_iff.2 hi)
      (List.idxOf_lt_length_iff.2 hj) lt
    rwa [List.getElem_idxOf, List.getElem_idxOf] at this
  refine ⟨forward hi hj, fun before => ?_⟩
  rcases Nat.lt_trichotomy ((examOrder s).idxOf i) ((examOrder s).idxOf j) with lt | e | gt
  · exact lt
  · rw [List.idxOf_inj hi] at e
    exact absurd (e ▸ before) (examBefore_asymm before)
  · exact absurd (forward hj hi gt) (examBefore_asymm before)

theorem firstGrant_iff {s : State} {i : Fin 16} {g : Grant} : firstGrant s = some (i, g) ↔
    ∃ before after, examOrder s = before ++ i :: after ∧ grantFor s i = some g
      ∧ ∀ j, j ∈ before → grantFor s j = none := by
  unfold firstGrant
  rw [List.findSome?_eq_some_iff]
  simp only [Option.map_eq_some_iff, Option.map_eq_none_iff, Prod.mk.injEq]
  constructor
  · rintro ⟨before, _, after, order, ⟨_, hg, rfl, rfl⟩, none⟩
    exact ⟨before, after, order, hg, none⟩
  · rintro ⟨before, after, order, hg, none⟩
    exact ⟨before, i, after, order, ⟨g, hg, rfl, rfl⟩, none⟩

/-! ### One grant, and one after the other (R52) -/

/-- What every grant of an examination keeps stands when it ends. -/
theorem grants_induct {P : State → Prop}
    (step : ∀ v j h, P v → firstGrant v = some (j, h) → P (grantSlot j h v)) :
    ∀ (n : Nat) {v : State}, P v → P (grants n v)
  | 0, _, hv => hv
  | n + 1, v, hv => by
    cases hf : firstGrant v with
    | none => rwa [grants_none hf]
    | some p => rw [grants_found hf]; exact grants_induct step n (step v p.1 p.2 hv hf)

/-- The state with the slots, claims and front end of another: what grants write. -/
def State.withGrants (s t : State) : State :=
  { s with slots := t.slots, termClaims := t.termClaims, sourceClaims := t.sourceClaims,
           convClaims := t.convClaims, conns := t.conns, sources := t.sources, convs := t.convs }

theorem grantSlot_frame (i : Fin 16) (g : Grant) (s : State) :
    grantSlot i g s = s.withGrants (grantSlot i g s) := by
  unfold grantSlot
  split
  · rfl
  · split <;> rfl

theorem grants_frame (n : Nat) (s : State) : grants n s = s.withGrants (grants n s) :=
  grants_induct (P := fun v => v = s.withGrants v) (fun v j h hv _ => calc
    grantSlot j h v = v.withGrants (grantSlot j h v) := grantSlot_frame j h v
    _ = (s.withGrants v).withGrants (grantSlot j h v) := congrArg (·.withGrants (grantSlot j h v)) hv
    _ = s.withGrants (grantSlot j h v) := rfl) n rfl

/-- A grant either stops short of a slot without a request or writes the slot's request. -/
theorem grantSlot_same_or (i : Fin 16) (g : Grant) (s : State) :
    grantSlot i g s = s ∨ ∃ r q, s.slots.look i = some r ∧ r.request = some q := by
  unfold grantSlot
  split
  · exact .inl rfl
  · rename_i r hr
    split
    · exact .inl rfl
    · rename_i q hq
      exact .inr ⟨r, q, hr, hq⟩

/-- A slot that is not WAITING stands through every grant. -/
theorem grants_look (n : Nat) {s : State} {j : Fin 16} {x : SlotRec} (hx : s.slots.look j = some x)
    (hs : x.state ≠ .waiting) : (grants n s).slots.look j = some x := by
  refine grants_induct (P := fun v => v.slots.look j = some x) (fun v i g hv hf => ?_) n hx
  obtain ⟨r, hr, waits⟩ := waiting_of_examOrder (firstGrant_found hf).1
  rcases grantSlot_same_or i g v with same | ⟨_, q, hr', hq⟩
  · rwa [same]
  · have ne : j ≠ i := fun e => hs (Option.some.inj (hv.symm.trans (e ▸ hr)) ▸ waits)
    rw [grantSlot_look_other hr' hq ne hv, SlotRec.bypassed_of_not_waiting hs]

/-! ### An examination ends -/

/-- What a grant leaves a slot: its state and grant, or SETTLING from WAITING. -/
def SlotRec.examined (r x : SlotRec) : Prop :=
  x.request = r.request ∧ x.needSet = r.needSet ∧ x.origin = r.origin
    ∧ (x.state = r.state ∧ x.grant = r.grant
      ∨ r.state = .waiting ∧ x.state = .settling ∧ x.grant.isSome = true)

theorem SlotRec.examined.trans {r x y : SlotRec} (h1 : r.examined x) (h2 : x.examined y) :
    r.examined y := by
  obtain ⟨q1, n1, o1, s1⟩ := h1
  obtain ⟨q2, n2, o2, s2⟩ := h2
  refine ⟨q2.trans q1, n2.trans n1, o2.trans o1, ?_⟩
  rcases s1 with ⟨e1, g1⟩ | ⟨w1, e1, g1⟩ <;> rcases s2 with ⟨e2, g2⟩ | ⟨w2, e2, g2⟩
  · exact .inl ⟨e2.trans e1, g2.trans g1⟩
  · exact .inr ⟨e1 ▸ w2, e2, g2⟩
  · exact .inr ⟨w1, e2.trans e1, g2 ▸ g1⟩
  · exact absurd (e1.symm.trans w2) nofun

theorem grantSlot_examined {s : State} {i : Fin 16} {g : Grant} (hf : firstGrant s = some (i, g))
    {j : Fin 16} {r : SlotRec} (hr : s.slots.look j = some r) :
    ∃ x, (grantSlot i g s).slots.look j = some x ∧ r.examined x := by
  obtain ⟨y, hy, waits⟩ := waiting_of_examOrder (firstGrant_found hf).1
  rcases grantSlot_same_or i g s with same | ⟨_, q, hy', hq⟩
  · exact ⟨r, by rw [same, hr], rfl, rfl, rfl, .inl ⟨rfl, rfl⟩⟩
  · by_cases e : j = i
    · subst e
      obtain rfl : y = r := Option.some.inj (hy.symm.trans hr)
      exact ⟨_, (grantSlot_slots hr (Option.some.inj (hy'.symm.trans hy) ▸ hq) j).trans (if_pos rfl),
        rfl, rfl, rfl, .inr ⟨waits, rfl, rfl⟩⟩
    · obtain ⟨state, request, needs, origin, grant⟩ := bypassed_same r
      exact ⟨_, grantSlot_look_other hy' hq e hr, request, needs, origin, .inl ⟨state, grant⟩⟩

/-- Every slot that a grant leaves WAITING was WAITING with the same request and need set. -/
theorem grantSlot_waitingLaw {s : State} {i : Fin 16} {g : Grant} (law : WaitingLaw s)
    (hf : firstGrant s = some (i, g)) : WaitingLaw (grantSlot i g s) := by
  intro j x hx waits
  cases hr : s.slots.look j with
  | none =>
    rcases grantSlot_same_or i g s with same | ⟨r, q, hi, hq⟩
    · rw [same, hr] at hx
      cases hx
    · have ne : j ≠ i := fun e => by rw [e, hi] at hr; cases hr
      rw [grantSlot_slots hi hq, if_neg ne, hr] at hx
      cases hx
  | some r =>
    obtain ⟨y, hy, request, needs, -, state⟩ := grantSlot_examined hf hr
    obtain rfl : y = x := Option.some.inj (hy.symm.trans hx)
    rcases state with ⟨e, -⟩ | ⟨-, e, -⟩
    · rw [request, needs]
      exact law j r hr (e ▸ waits)
    · exact absurd (e.symm.trans waits) nofun

/-- Whether a slot is WAITING. -/
def SlotRec.waits (r : SlotRec) : Bool := r.state == .waiting

/-- Each grant leaves one WAITING slot less. -/
theorem grantSlot_waits {s : State} {i : Fin 16} {g : Grant} (law : WaitingLaw s)
    (hf : firstGrant s = some (i, g)) :
    (grantSlot i g s).countSlots SlotRec.waits + 1 = s.countSlots SlotRec.waits := by
  obtain ⟨r, hr, waits⟩ := waiting_of_examOrder (firstGrant_found hf).1
  obtain ⟨q, hq, -⟩ := law i r hr waits
  have others : ∀ j, j ≠ i → (grantSlot i g s).slotMeets SlotRec.waits j
      = s.slotMeets SlotRec.waits j := fun j ne => by
    unfold State.slotMeets
    rw [grantSlot_slots hr hq, if_neg ne]
    cases s.slots.look j with
    | none => rfl
    | some x => simp [SlotRec.waits, (bypassed_same x).1]
  have counted := countP_changed allSlots_nodup (mem_allSlots i) others
  rw [slotMeets_some hr, slotMeets_some ((grantSlot_slots hr hq i).trans (if_pos rfl))] at counted
  have settled : (SlotState.settling == SlotState.waiting) = false := rfl
  simpa [SlotRec.waits, waits, settled, State.countSlots] using counted

theorem firstGrant_of_none_waits {s : State} (h : s.countSlots SlotRec.waits = 0) :
    firstGrant s = none := by
  cases hf : firstGrant s with
  | none => rfl
  | some p =>
    obtain ⟨r, hr, waits⟩ := waiting_of_examOrder (firstGrant_found (i := p.1) (g := p.2) hf).1
    have := anySlot_false.1 (countSlots_eq_zero.1 h) p.1 r hr
    simp [SlotRec.waits, waits] at this

/-- As many grants as slots wait leave none that could be granted. -/
theorem grants_end : ∀ (n : Nat) {s : State}, WaitingLaw s → s.countSlots SlotRec.waits ≤ n →
    firstGrant (grants n s) = none
  | 0, _, _, le => firstGrant_of_none_waits (Nat.le_zero.1 le)
  | n + 1, s, law, le => by
    cases hf : firstGrant s with
    | none => rwa [grants_none hf]
    | some p =>
      have fewer := grantSlot_waits law (i := p.1) (g := p.2) hf
      rw [grants_found hf]
      exact grants_end n (grantSlot_waitingLaw law hf) (by omega)

/-- Settles O23. -/
theorem examinationEndsWithoutAGrant : Obligations.ExaminationEndsWithoutAGrant := by
  unfold Obligations.ExaminationEndsWithoutAGrant
  intro s
  refine ⟨fun _ => mem_examOrder, fun nodup => ⟨examOrder_nodup nodup, ?_⟩, fun _ _ => firstGrant_iff, ?_⟩
  · intro i j x y hi hj hx hy
    rw [examOrder_idxOf nodup hi hj, examBefore_iff hx hy]
  · intro due law
    have examined : examine s = grants 16 { s with examDue := false } := by rw [examine, if_pos due]
    have few : s.countSlots SlotRec.waits ≤ 16 := List.countP_le_length
    rw [examined]
    refine ⟨grants_end 16 (s := { s with examDue := false }) law few,
      congrArg State.examDue (grants_frame 16 { s with examDue := false }), fun i r hr => ?_⟩
    obtain ⟨x, hx, request, needs, origin, state⟩ := grants_induct
      (P := fun v => ∃ x, v.slots.look i = some x ∧ r.examined x)
      (fun v j h ⟨x, hx, e⟩ hf => by
        obtain ⟨y, hy, e'⟩ := grantSlot_examined hf hx
        exact ⟨y, hy, e.trans e'⟩) 16 (v := { s with examDue := false })
      ⟨r, hr, rfl, rfl, rfl, .inl ⟨rfl, rfl⟩⟩
    exact ⟨x, hx, request, needs, origin, state.imp_left And.left⟩

/-! ### The first grant stands -/

/-- The records that a grant of slot `i`, whose slot is then `x`, leaves: converter, connections,
source and terminals. -/
structure GrantStands (i : Fin 16) (g : Grant) (x : SlotRec) (q : Request) (ns : NeedSet)
    (rec : ConvRec) (v : State) : Prop where
  slot : v.slots.look i = some x
  claim : v.convClaims.look g.conv = .slot i
  conv : v.convs.look g.conv = rec
  conns : v.conns.look g.conv = q.connections
  source : ∀ y, g.source = some y →
    v.sourceClaims.look y = some i ∧ v.sources.look y = .on q.levelV i
  drive : ∀ term, (term, ClaimKind.drive) ∈ ns.terms → v.termClaims.look term = .drive i
  sense : ∀ term, (term, ClaimKind.sense) ∈ ns.terms →
    ∃ hs, v.termClaims.look term = .sense hs ∧ (i, g.conv) ∈ hs

theorem grantSlot_stands {i : Fin 16} {g : Grant} {r : SlotRec} {q : Request} {ns : NeedSet} {s : State}
    (hr : s.slots.look i = some r) (hq : r.request = some q) (hn : r.needSet = some ns)
    (distinct : ns.distinct) :
    GrantStands i g { r with state := .settling, grant := some g, blocking := false } q ns
      { s.convs.look g.conv with
        state := .settling, serving := .slot i, currentRange := q.startRange,
        phaseTimer := some (q.settleTime (s.convs.look g.conv).currentRange) } (grantSlot i g s) where
  slot := (grantSlot_slots hr hq i).trans (if_pos rfl)
  claim := by simp [grantSlot, hr, hq]
  conv := by simp [grantSlot, hr, hq]
  conns := by simp [grantSlot, hr, hq]
  source := fun y hy => by simp [grantSlot, hr, hq, hy]
  drive := fun term ht => by
    simp [grantSlot, hr, hq, SlotRec.terms, hn, addClaims_mem i g.conv ns.terms _ term _ distinct ht,
      addClaim]
  sense := fun term ht => by
    simp only [grantSlot, hr, hq, SlotRec.terms, hn,
      addClaims_mem i g.conv ns.terms _ term _ distinct ht]
    cases s.termClaims.look term <;> simp [addClaim]

/-- A later grant finds the converter, the source and the DRIVE terminals of an earlier one held, and
at most joins its SENSE terminals. -/
theorem GrantStands.kept {i : Fin 16} {g : Grant} {x : SlotRec} {q : Request} {ns : NeedSet}
    {rec : ConvRec} {v : State} {j : Fin 16} {h : Grant} (stands : GrantStands i g x q ns rec v)
    (settled : x.state ≠ .waiting) (hf : firstGrant v = some (j, h)) :
    GrantStands i g x q ns rec (grantSlot j h v) := by
  obtain ⟨r, hr, waits⟩ := waiting_of_examOrder (firstGrant_found hf).1
  have ne : i ≠ j := fun e =>
    settled (Option.some.inj (stands.slot.symm.trans (e ▸ hr)) ▸ waits)
  rcases grantSlot_same_or j h v with same | ⟨_, p, hr', hp⟩
  · rwa [same]
  obtain rfl : r = _ := Option.some.inj (hr.symm.trans hr')
  obtain ⟨_, m, hr', hm, meets, sources⟩ := grantFor_found (firstGrant_found hf).2
  obtain rfl : r = _ := Option.some.inj (hr.symm.trans hr')
  obtain ⟨free, fits⟩ := canMeet_free meets
  have convNe : g.conv ≠ h.conv := fun e => by
    have := stands.claim
    rw [e, free] at this
    cases this
  have sourceNe : ∀ y, g.source = some y → h.source ≠ some y := fun y hy hs => by
    have member := List.mem_of_head? (sources.symm.trans hs)
    have := (stands.source y hy).1
    rw [(mem_grantableSources.1 member).2.1] at this
    cases this
  have terms : (grantSlot j h v).termClaims = addClaims j h.conv m.terms v.termClaims := by
    simp [grantSlot, hr, hp, SlotRec.terms, hm]
  exact {
    slot := by
      rw [grantSlot_look_other hr hp ne stands.slot, SlotRec.bypassed_of_not_waiting settled]
    claim := by simp [grantSlot, hr, hp, convNe, stands.claim]
    conv := by simp [grantSlot, hr, hp, convNe, stands.conv]
    conns := by simp [grantSlot, hr, hp, convNe, stands.conns]
    source := fun y hy => by
      have other := sourceNe y hy
      have was := stands.source y hy
      cases hs : h.source with
      | none => simp [grantSlot, hr, hp, hs, was]
      | some z =>
        have : y ≠ z := fun e => other (by rw [hs, e])
        simp [grantSlot, hr, hp, hs, this, was]
    drive := fun term ht => by rw [terms]; exact addClaims_drive fits (stands.drive term ht)
    sense := fun term ht => by
      obtain ⟨hs, held, member⟩ := stands.sense term ht
      rw [terms]
      refine addClaims_sense (fun y hy e => ?_) held member
      cases kind : y.2 with
      | sense => rfl
      | drive =>
        have := termFits_drive.1 (kind ▸ fits y hy)
        rw [e, held] at this
        cases this }

theorem settleTime_eq (q : Request) (g : Range) : q.settleTime g =
    200 + (if g = q.startRange then 0 else 500)
      + (if q.mode.toNat = 2 ∨ q.mode.toNat = 3 then q.levelV.settle else 0) + q.extraSettle.toNat := by
  simp only [← Request.modeV_isResistance_iff]
  rfl

theorem connections_of_mode (q : Request) :
    (q.mode.toNat = 0 → q.connections
        = { plus := .terminal (termOf q.termA), minus := .agnd, driveHigh := none, driveLow := none })
      ∧ (q.mode.toNat = 1 → q.connections
        = { plus := .terminal (termOf q.termA), minus := .terminal (termOf q.termB),
            driveHigh := none, driveLow := none })
      ∧ (q.mode.toNat = 2 → q.connections
        = { plus := .terminal (termOf q.termA), minus := .terminal (termOf q.termB),
            driveHigh := some (termOf q.termA), driveLow := some (termOf q.termB) })
      ∧ (q.mode.toNat = 3 → q.connections
        = { plus := .terminal (termOf q.termC), minus := .terminal (termOf q.termD),
            driveHigh := some (termOf q.termA), driveLow := some (termOf q.termB) })
      ∧ (q.mode.toNat = 4 → q.connections
        = { plus := .supplyDivider, minus := .agnd, driveHigh := none, driveLow := none })
      ∧ (q.mode.toNat = 5 → q.connections
        = { plus := .refChannel, minus := .agnd, driveHigh := none, driveLow := none }) := by
  refine ⟨?_, ?_, ?_, ?_, ?_, ?_⟩ <;> intro h <;>
    simp [Request.connections, Request.modeV, modeOf, h]

/-- Settles O22. -/
theorem examinationGrantsWholeNeedSet : Obligations.ExaminationGrantsWholeNeedSet := by
  unfold Obligations.ExaminationGrantsWholeNeedSet
  refine ⟨connections_of_mode, ?_⟩
  intro i g r q ns s work due hf hr hq hn distinct
  obtain ⟨v, hv⟩ : ∃ v, v = { s with examDue := false } := ⟨_, rfl⟩
  have hf' : firstGrant v = some (i, g) := by rw [hv]; exact hf
  obtain ⟨u, hu⟩ : ∃ u, u = grants 16 v := ⟨_, rfl⟩
  have examined : examine s = u := by rw [hu, hv, examine, if_pos due]
  have hr' : v.slots.look i = some r := by rw [hv]; exact hr
  have stands := grants_induct (P := GrantStands i g _ q ns _)
    (fun w j h => fun stands hf => stands.kept SlotState.noConfusion hf) 15
    (grantSlot_stands (g := g) hr' hq hn distinct)
  rw [← grants_found hf', ← hu] at stands
  have frame : u = ({ s with examDue := false } : State).withGrants u := by
    rw [hu, hv]; exact grants_frame 16 _
  have w := work.of_slot (u := u) (congrArg State.device frame :) stands.slot nofun nofun
  have aside := settle_aside_work w
  refine ⟨settle u, act_to work.1 examined, settle_slotsStand w i _ (by simp) stands.slot nofun,
    ?_, ?_, ?_, ?_, ?_, ?_, ?_, ?_, ?_, ?_, ?_, ?_, ?_, ?_⟩
  · rw [aside_convClaims aside, stands.claim]
  · rw [aside_convs aside, stands.conv, settleTime_eq, hv]
    unfold Request.levelV
    generalize q.level.toNat = n
    rcases n with _ | _ | n <;> rfl
  · rw [aside_conns aside, stands.conns]
  · rw [aside_sourceClaims aside, aside_sources aside]
    exact stands.source
  · rw [aside_termClaims aside]
    exact stands.drive
  · rw [aside_termClaims aside]
    exact stands.sense
  · exact (aside_control aside).trans (congrArg State.control frame :)
  · exact (aside_store aside).trans (congrArg State.store frame :)
  · exact (aside_templates aside).trans (congrArg State.templates frame :)
  · exact (aside_intPending aside).trans (congrArg State.intPending frame :)
  · exact sqsStand_via (fun k _ => by rw [frame]; rfl) (settle_sqsStand w)
  · exact cqsGrow_via (fun k _ => by rw [frame]; rfl) (settle_cqsGrow w)
  · exact scansStand_via (fun k _ => by rw [frame]; rfl) (settle_scansStand w)
  · intro j x hx waits fenced
    refine settle_slotsStand w j x (by simp) ?_ fenced
    rw [hu]
    exact grants_look 16 (by rw [hv]; exact hx) waits

end Sys2Proof.Machine
end

section
/-! DELETE_SQ and the completion of a pass in one event (R145, R190). The pass completion comes before
the end of the deletion, and a scan's record that targets CQ0, which the premises of O46 do not exclude,
then stands before the command's completion. -/

namespace Sys2Proof.Machine

-- Parallel elaboration of the one text reserves more memory than the check allows.
set_option Elab.async false

/-- READY: the AX has read the entry at SQ0's head, SQ1 is ACTIVE without slots, and scan0, whose last
pass has no slot left, is STOPPING with CQ0 as its target. -/
def stoppingIntoCq0 : State :=
  { State.reset with
    device := .ready
    sqs := (State.reset.sqs.put 0 { Sq.gone with state := .active, size := 4, tail := 1 }).put 1
      { Sq.gone with state := .active, size := 4, boundCq := 1 }
    cqs := State.reset.cqs.put 0 { Cq.gone with state := .active, size := 4 }
    scans := State.reset.scans.put 0 { Scan.reset with state := .stopping, target := some 0 }
    ax := .fetching 0 }

theorem stoppingIntoCq0_mayTake : stoppingIntoCq0.mayTake 0 :=
  ⟨⟨rfl, .inl rfl⟩, rfl, by decide, by decide, by decide⟩

/-- DELETE_SQ of SQ1 leaves the SCAN_DONE record at the front of CQ0's list. -/
theorem stoppingIntoCq0_deleteSq : ∃ t, exec (.deleteSq 0 1) stoppingIntoCq0 = .next t
    ∧ (t.cqs.look 0).list.head? = some (.scanDone ⟨0, .stopped, 0, 0, 0⟩) :=
  ⟨_, rfl, by decide +kernel⟩

/-- Refutes O46: the completion of a DELETE_SQ that ends within its event need not be the next member of
CQ0's list. -/
theorem not_deleteSq : ¬ Obligations.DeleteSq := by
  unfold Obligations.DeleteSq
  intro h
  obtain ⟨t, ht, -, -, work⟩ := (h 0 1 1 0 stoppingIntoCq0 (by decide)).1 stoppingIntoCq0_mayTake
  obtain ⟨u, hu, first⟩ := stoppingIntoCq0_deleteSq
  obtain rfl : t = u := Host.Outcome.next.inj (ht.symm.trans hu)
  obtain ⟨-, -, -, -, -, -, noSlots, -⟩ :=
    work (by decide) (by decide) (by decide) (.inl rfl)
  have free : ∀ i r, stoppingIntoCq0.slots.look i = some r → r.fromSq 1 = false := fun i r hr => by
    rw [show stoppingIntoCq0.slots.look i = none from Table.look_replicate _ i] at hr
    cases hr
  obtain ⟨-, -, -, -, -, -, ⟨list, grown⟩, -⟩ := noSlots free
  have empty : (stoppingIntoCq0.cqs.look 0).list = [] := by decide
  rw [empty] at grown
  rw [← grown] at first
  cases first

end Sys2Proof.Machine
end

section
/-! SUPPORT. Aborts: what one leaves its slot by the slot's state, what it leaves of all else, and that
aborts taken in age order reach each slot once (R39, R40). -/

namespace Sys2Proof.Machine

-- Parallel elaboration of the one text reserves more memory than the check allows.
set_option Elab.async false

/-! ### What every abort keeps -/

/-- Converter `c`, whose record was `b`, is cut off (R59, R69, R89). -/
def converterCut (c : Conv) (b : ConvRec) (v : State) : Prop :=
  (∃ n, v.convs.look c = { b with
      state := .recovery, phaseTimer := some 1000, serving := .nothing, counter := n })
    ∧ v.convClaims.look c = .recovery ∧ v.conns.look c = ConnSet.rest

/-- Source `x` is OFF and free. -/
def sourceFree (x : SourceId) (v : State) : Prop :=
  v.sourceClaims.look x = none ∧ v.sources.look x = .off

/-- What stands through an abort of any slot: the parts it does not touch, and what earlier aborts have
cut off and released. -/
structure AbortKeeps (s t : State) : Prop where
  control : t.control = s.control
  store : t.store = s.store
  templates : t.templates = s.templates
  intPending : t.intPending = s.intPending
  sqs : t.sqs = s.sqs
  cqs : cqsGrow [] s t
  scans : ∀ k, ∃ n, t.scans.look k = { s.scans.look k with outstanding := n }
  exam : s.examDue = true → t.examDue = true
  convs : ∀ c, t.convs.look c = s.convs.look c ∨ converterCut c (s.convs.look c) t
  cut : ∀ c b, converterCut c b s → converterCut c b t
  off : ∀ x, sourceFree x s → sourceFree x t
  released : ∀ i x, (s.termClaims.look x).without i → (t.termClaims.look x).without i

theorem AbortKeeps.refl (s : State) : AbortKeeps s s where
  control := rfl
  store := rfl
  templates := rfl
  intPending := rfl
  sqs := rfl
  cqs := cqsGrow_refl _ _
  scans := fun _ => ⟨_, rfl⟩
  exam := id
  convs := fun _ => .inl rfl
  cut := fun _ _ => id
  off := fun _ => id
  released := fun _ _ => id

theorem AbortKeeps.trans {s t u : State} (h : AbortKeeps s t) (k : AbortKeeps t u) : AbortKeeps s u where
  control := k.control.trans h.control
  store := k.store.trans h.store
  templates := k.templates.trans h.templates
  intPending := k.intPending.trans h.intPending
  sqs := k.sqs.trans h.sqs
  cqs := cqsGrow_trans h.cqs k.cqs
  scans := fun c => by
    obtain ⟨n, hn⟩ := h.scans c
    obtain ⟨m, hm⟩ := k.scans c
    exact ⟨m, by rw [hm, hn]⟩
  exam := fun e => k.exam (h.exam e)
  convs := fun c => by
    rcases h.convs c with same | cut
    · exact same ▸ k.convs c
    · exact .inr (k.cut c _ cut)
  cut := fun c b e => k.cut c b (h.cut c b e)
  off := fun x e => k.off x (h.off x e)
  released := fun i x e => k.released i x (h.released i x e)

/-- A change of the slots, the lists and OUTSTANDING alone keeps them. -/
theorem AbortKeeps.of_aside {s t : State} (aside : t.aside = s.aside) (sqs : t.sqs = s.sqs)
    (cqs : cqsGrow [] s t) (exam : t.examDue = s.examDue)
    (scans : ∀ k, ∃ n, t.scans.look k = { s.scans.look k with outstanding := n }) : AbortKeeps s t where
  control := aside_control aside
  store := aside_store aside
  templates := aside_templates aside
  intPending := aside_intPending aside
  sqs := sqs
  cqs := cqs
  scans := scans
  exam := fun e => exam.trans e
  convs := fun c => .inl (by rw [aside_convs aside])
  cut := fun c b e => by
    unfold converterCut at *
    rwa [aside_convs aside, aside_convClaims aside, aside_conns aside]
  off := fun x e => by
    unfold sourceFree at *
    rwa [aside_sources aside, aside_sourceClaims aside]
  released := fun i x e => by rwa [aside_termClaims aside]

theorem setSlot_keeps (i : Fin 16) (x : Option SlotRec) (s : State) : AbortKeeps s (s.setSlot i x) :=
  .of_aside rfl rfl (cqsGrow_of_eq rfl) rfl fun _ => ⟨_, rfl⟩

theorem postSlot_keeps (i : Fin 16) (res : Result) (s : State) : AbortKeeps s (postSlot i res s) := by
  refine .of_aside (postSlot_aside i res s) (postSlot_sqs i res s)
    (postSlot_grow i res s) (postSlot_examDue i res s) fun k => ?_
  unfold postSlot handOff
  dsimp only
  repeat' split
  · exact ⟨_, rfl⟩
  · exact ⟨_, rfl⟩
  · exact ⟨_, by rw [joinList_scans]; rfl⟩
  · exact freeSlot_scan i _ k

theorem examDue_keeps (s : State) : AbortKeeps s { s with examDue := true } where
  control := rfl
  store := rfl
  templates := rfl
  intPending := rfl
  sqs := rfl
  cqs := cqsGrow_of_eq rfl
  scans := fun _ => ⟨_, rfl⟩
  exam := fun _ => rfl
  convs := fun _ => .inl rfl
  cut := fun _ _ => id
  off := fun _ => id
  released := fun _ _ => id

/-- A release of another slot gives slot `i` no claim. -/
theorem dropClaim_keeps_without {i j : Fin 16} {t : TermClaim} (h : t.without i) :
    (dropClaim j t).without i := by
  obtain ⟨drive, sense⟩ := h
  cases t with
  | free => simp [dropClaim, TermClaim.without]
  | drive k =>
    simp only [dropClaim]
    split
    · exact ⟨nofun, nofun⟩
    · exact ⟨drive, nofun⟩
  | sense hs =>
    simp only [dropClaim]
    split
    · exact ⟨nofun, nofun⟩
    · rename_i h l e
      refine ⟨nofun, fun hs' he d hm => ?_⟩
      cases he
      rw [← e] at hm
      exact sense hs rfl d (List.mem_of_mem_filter hm)

theorem dropClaims_keeps_others {i : Fin 16} (j : Fin 16) (terms : List (Fin 16 × ClaimKind)) :
    ∀ (t : Table TermClaim 16) (x : Fin 16), (t.look x).without i →
      ((dropClaims j terms t).look x).without i := by
  induction terms with
  | nil => exact fun t x h => h
  | cons a l ih =>
    intro t x h
    rw [dropClaims_cons]
    apply ih
    rw [Table.look_put]
    split
    · rename_i e
      exact dropClaim_keeps_without (e ▸ h)
    · exact h

/-- The front end of grant `g` of slot `i` is cut off. -/
def cutFrontEnd (i : Fin 16) (g : Grant) (terms : List (Fin 16 × ClaimKind)) (s : State) : State :=
  releaseFrontEnd i g terms (cutConverter g.conv s)

section cutFrontEnd

variable (i : Fin 16) (g : Grant) (terms : List (Fin 16 × ClaimKind)) (s : State)

theorem cutFrontEnd_converter :
    converterCut g.conv (s.convs.look g.conv) (cutFrontEnd i g terms s) := by
  unfold converterCut cutFrontEnd releaseFrontEnd cutConverter
  simp [recoveryTime]

theorem cutFrontEnd_stands {c : Conv} (h : c ≠ g.conv) :
    (cutFrontEnd i g terms s).convs.look c = s.convs.look c
      ∧ (cutFrontEnd i g terms s).convClaims.look c = s.convClaims.look c
      ∧ (cutFrontEnd i g terms s).conns.look c = s.conns.look c := by
  simp [cutFrontEnd, releaseFrontEnd, cutConverter, h]

theorem cutFrontEnd_source {x : SourceId} (h : g.source = some x) :
    sourceFree x (cutFrontEnd i g terms s) := by
  simp [sourceFree, cutFrontEnd, releaseFrontEnd, h]

theorem cutFrontEnd_keeps : AbortKeeps s (cutFrontEnd i g terms s) where
  control := rfl
  store := rfl
  templates := rfl
  intPending := rfl
  sqs := rfl
  cqs := cqsGrow_of_eq rfl
  scans := fun _ => ⟨_, rfl⟩
  exam := fun _ => rfl
  convs := fun c => by
    by_cases e : c = g.conv
    · exact .inr (e ▸ cutFrontEnd_converter i g terms s)
    · exact .inl (cutFrontEnd_stands i g terms s e).1
  cut := fun c b h => by
    by_cases e : c = g.conv
    · obtain ⟨⟨n, hn⟩, -⟩ := h
      obtain ⟨⟨m, hm⟩, rest⟩ := cutFrontEnd_converter i g terms s
      subst e
      exact ⟨⟨m, by rw [hm, hn]⟩, rest⟩
    · obtain ⟨convs, claims, conns⟩ := cutFrontEnd_stands i g terms s e
      unfold converterCut at *
      rwa [convs, claims, conns]
  off := fun x h => by
    cases hg : g.source with
    | none => simpa [sourceFree, cutFrontEnd, releaseFrontEnd, cutConverter, hg] using h
    | some y =>
      by_cases e : x = y
      · exact e ▸ cutFrontEnd_source i g terms s hg
      · simpa [sourceFree, cutFrontEnd, releaseFrontEnd, cutConverter, hg, e] using h
  released := fun j x h => dropClaims_keeps_others i terms _ x h

theorem cutFrontEnd_released {x : Fin 16} (h : x ∈ terms.map Prod.fst) :
    ((cutFrontEnd i g terms s).termClaims.look x).without i := dropClaims_without i terms _ x h

end cutFrontEnd

theorem cutGranted_some {i : Fin 16} {r : SlotRec} {s : State} {g : Grant} (h : r.grant = some g) :
    cutGranted i r s = cutFrontEnd i g r.terms (s.setSlot i (some { r with sum := 0 })) := by
  simp [cutGranted, h, cutFrontEnd]

theorem cutGranted_keeps (i : Fin 16) (r : SlotRec) (s : State) : AbortKeeps s (cutGranted i r s) := by
  cases hg : r.grant with
  | none => simpa [cutGranted, hg] using setSlot_keeps i (some { r with sum := 0 }) s
  | some g => rw [cutGranted_some hg]; exact (setSlot_keeps i _ s).trans (cutFrontEnd_keeps i g _ _)

theorem cutGranted_rings (i : Fin 16) (r : SlotRec) (s : State) :
    (cutGranted i r s).slots = s.slots.put i (some { r with sum := 0 })
      ∧ (cutGranted i r s).cqs = s.cqs := by
  unfold cutGranted
  dsimp only
  split <;> exact ⟨rfl, rfl⟩

/-! ### One abort by the state of its slot (R40) -/

section abortSlot

variable {d : AbortDetail} {i : Fin 16} {r : SlotRec} {s : State} (h : s.slots.look i = some r)

include h

theorem abortSlot_fetching (hs : r.state = .fetching) : (abortSlot d i s).1
    = if r.pendingAbort.isNone then s.setSlot i (some { r with pendingAbort := some d }) else s := by
  simp only [abortSlot, h, hs]
  split <;> rfl

theorem abortSlot_waiting (hs : r.state = .waiting) : (abortSlot d i s).1
    = postSlot i (abortedResult d (carriedLimit s r))
        { s.setSlot i (some { r with blocking := false }) with examDue := true } := by
  simp [abortSlot, h, hs]

theorem abortSlot_cut (hs : r.state = .settling ∨ r.state = .converting) : (abortSlot d i s).1
    = postSlot i (abortedResult d (carriedLimit s r)) (cutGranted i r s) := by
  rcases hs with hs | hs <;> simp [abortSlot, h, hs]

theorem abortSlot_late (hs : r.state = .correcting ∨ r.state = .posting) : abortSlot d i s = (s, false) := by
  rcases hs with hs | hs <;> simp [abortSlot, h, hs]

theorem abortSlot_fenced (hs : r.state = .fenced) : (abortSlot d i s).1
    = if r.result.isNone then s.setSlot i (some { r with result := some (abortedResult d .unknown) })
      else s := by
  simp only [abortSlot, h, hs]
  split <;> rfl

theorem abortSlot_counts : (abortSlot d i s).2 = r.abortCounts := by
  unfold SlotRec.abortCounts
  simp only [abortSlot, h]
  cases r.state with
  | fetching => cases r.pendingAbort <;> rfl
  | fenced => cases r.result <;> rfl
  | waiting => rfl
  | settling => rfl
  | converting => rfl
  | correcting => rfl
  | posting => rfl

end abortSlot

theorem abortSlot_keeps (d : AbortDetail) (i : Fin 16) (s : State) : AbortKeeps s (abortSlot d i s).1 := by
  cases h : s.slots.look i with
  | none => simpa [abortSlot, h] using AbortKeeps.refl s
  | some r =>
    cases hs : r.state with
    | fetching =>
      rw [abortSlot_fetching h hs]
      split
      · exact setSlot_keeps i _ s
      · exact .refl s
    | waiting =>
      rw [abortSlot_waiting h hs]
      exact ((setSlot_keeps i _ s).trans (examDue_keeps _)).trans (postSlot_keeps i _ _)
    | settling =>
      rw [abortSlot_cut h (.inl hs)]
      exact (cutGranted_keeps i r s).trans (postSlot_keeps i _ _)
    | converting =>
      rw [abortSlot_cut h (.inr hs)]
      exact (cutGranted_keeps i r s).trans (postSlot_keeps i _ _)
    | correcting => rw [abortSlot_late h (.inl hs)]; exact .refl s
    | posting => rw [abortSlot_late h (.inr hs)]; exact .refl s
    | fenced =>
      rw [abortSlot_fenced h hs]
      split
      · exact setSlot_keeps i _ s
      · exact .refl s

/-- An abort of a slot of an SQ leaves the scans. -/
theorem abortSlot_scans_sq {d : AbortDetail} {i : Fin 16} {r : SlotRec} {s : State} {q : Fin 8}
    {index : Nat} {a : Option Admission} (h : s.slots.look i = some r)
    (ho : r.origin = .sq q index a) : (abortSlot d i s).1.scans = s.scans := by
  have cut : r.state = .settling ∨ r.state = .converting → (abortSlot d i s).1.scans = s.scans := by
    intro hs
    obtain ⟨slots, -⟩ := cutGranted_rings i r s
    have own : (cutGranted i r s).slots.look i = some { r with sum := 0 } := by
      rw [slots, Table.look_put_same]
    rw [abortSlot_cut h hs, postSlot_scans_sq own ho]
    unfold cutGranted
    dsimp only
    split <;> rfl
  cases hs : r.state with
  | fetching => rw [abortSlot_fetching h hs]; split <;> rfl
  | waiting =>
    rw [abortSlot_waiting h hs]
    have own : ({ s.setSlot i (some { r with blocking := false }) with examDue := true } :
        State).slots.look i = some { r with blocking := false } := Table.look_put_same _ _ _
    exact postSlot_scans_sq own ho _
  | settling => exact cut (.inl hs)
  | converting => exact cut (.inr hs)
  | correcting => rw [abortSlot_late h (.inl hs)]
  | posting => rw [abortSlot_late h (.inr hs)]
  | fenced => rw [abortSlot_fenced h hs]; split <;> rfl

/-- Another slot stands through an abort, and no list takes it. -/
theorem abortSlot_other (d : AbortDetail) {i j : Fin 16} (ne : j ≠ i) (s : State) :
    (abortSlot d i s).1.slots.look j = s.slots.look j
      ∧ listings j (abortSlot d i s).1 = listings j s := by
  have posted : ∀ (res : Result) (v : State), v.slots.look j = s.slots.look j → v.cqs = s.cqs →
      (postSlot i res v).slots.look j = s.slots.look j ∧ listings j (postSlot i res v) = listings j s :=
    fun res v hs hc => ⟨(postSlot_slots_ne ne res v).trans hs,
      (postSlot_listings j (Ne.symm ne) res v).trans (by funext c; simp [listings, hc])⟩
  cases h : s.slots.look i with
  | none => simp [abortSlot, h]
  | some r =>
    have cut : (cutGranted i r s).slots.look j = s.slots.look j ∧ (cutGranted i r s).cqs = s.cqs := by
      obtain ⟨slots, cqs⟩ := cutGranted_rings i r s
      exact ⟨by rw [slots, Table.look_put_ne _ _ _ _ ne], cqs⟩
    have set : ∀ x, (s.setSlot i x).slots.look j = s.slots.look j := fun x => by simp [ne]
    cases hs : r.state with
    | fetching =>
      rw [abortSlot_fetching h hs]
      split
      · exact ⟨set _, rfl⟩
      · exact ⟨rfl, rfl⟩
    | waiting => rw [abortSlot_waiting h hs]; exact posted _ _ (set _) rfl
    | settling => rw [abortSlot_cut h (.inl hs)]; exact posted _ _ cut.1 cut.2
    | converting => rw [abortSlot_cut h (.inr hs)]; exact posted _ _ cut.1 cut.2
    | correcting => rw [abortSlot_late h (.inl hs)]; exact ⟨rfl, rfl⟩
    | posting => rw [abortSlot_late h (.inr hs)]; exact ⟨rfl, rfl⟩
    | fenced =>
      rw [abortSlot_fenced h hs]
      split
      · exact ⟨set _, rfl⟩
      · exact ⟨rfl, rfl⟩

/-- Converter `c` stands, with its claim and its connections. -/
def convStands (c : Conv) (s t : State) : Prop :=
  t.convs.look c = s.convs.look c ∧ t.convClaims.look c = s.convClaims.look c
    ∧ t.conns.look c = s.conns.look c

theorem convStands_of_aside {s t : State} (h : t.aside = s.aside) (c : Conv) : convStands c s t :=
  ⟨by rw [aside_convs h], by rw [aside_convClaims h], by rw [aside_conns h]⟩

theorem convStands.trans {c : Conv} {s t u : State} (h : convStands c s t) (k : convStands c t u) :
    convStands c s u := ⟨k.1.trans h.1, k.2.1.trans h.2.1, k.2.2.trans h.2.2⟩

/-- An abort cuts off no converter but that of a slot in SETTLING or CONVERTING. -/
theorem abortSlot_convStands (d : AbortDetail) {i : Fin 16} {s : State} {c : Conv}
    (other : ∀ r g, s.slots.look i = some r → r.state = .settling ∨ r.state = .converting →
      r.grant = some g → g.conv ≠ c) : convStands c s (abortSlot d i s).1 := by
  have same : convStands c s s := ⟨rfl, rfl, rfl⟩
  cases h : s.slots.look i with
  | none => simpa [abortSlot, h] using same
  | some r =>
    have cut : r.state = .settling ∨ r.state = .converting → convStands c s (abortSlot d i s).1 := by
      intro hs
      rw [abortSlot_cut h hs]
      refine convStands.trans ?_ (convStands_of_aside (postSlot_aside _ _ _) c)
      cases hg : r.grant with
      | none =>
        rw [cutGranted, hg]
        exact same
      | some g =>
        rw [cutGranted_some hg]
        exact cutFrontEnd_stands i g _ _ (Ne.symm (other r g h hs hg))
    cases hs : r.state with
    | settling => exact cut (.inl hs)
    | converting => exact cut (.inr hs)
    | fetching => rw [abortSlot_fetching h hs]; split <;> exact same
    | waiting =>
      rw [abortSlot_waiting h hs]
      exact convStands_of_aside (postSlot_aside _ _ _) c
    | correcting => rw [abortSlot_late h (.inl hs)]; exact same
    | posting => rw [abortSlot_late h (.inr hs)]; exact same
    | fenced => rw [abortSlot_fenced h hs]; split <;> exact same

theorem postSlot_cqs_ne {i : Fin 16} {r : SlotRec} {s : State} {c : Fin 8}
    (h : s.slots.look i = some r) (ne : c ≠ r.targetCq) (res : Result) :
    (postSlot i res s).cqs.look c = s.cqs.look c := by
  by_cases rec : s.receives r
  · rw [postSlot_active h rec.1 rec.2]
    simp [ne]
  · rw [postSlot_freed h rec, freeSlot_cqs]
    rfl

/-- A slot that an abort posts joins the end of its list. -/
theorem abortSlot_joins {d : AbortDetail} {i : Fin 16} {r : SlotRec} {s : State}
    (h : s.slots.look i = some r) (rec : s.receives r)
    (hs : r.state = .waiting ∨ r.state = .settling ∨ r.state = .converting) :
    ((abortSlot d i s).1.cqs.look r.targetCq).list = (s.cqs.look r.targetCq).list ++ [.slot i] := by
  have joins : ∀ (res : Result) (x : SlotRec) (v : State), v.slots.look i = some x → v.cqs = s.cqs →
      x.targetCq = r.targetCq → x.orphaned = r.orphaned →
      ((postSlot i res v).cqs.look r.targetCq).list = (s.cqs.look r.targetCq).list ++ [.slot i] := by
    intro res x v hx hc ht ho
    rw [postSlot_active hx (by rw [hc, ht]; exact rec.1) (ho.trans rec.2), ht]
    simp [hc]
  obtain ⟨slots, cqs⟩ := cutGranted_rings i r s
  have own : (cutGranted i r s).slots.look i = some { r with sum := 0 } := by
    rw [slots, Table.look_put_same]
  have blocked : ({ s.setSlot i (some { r with blocking := false }) with examDue := true } :
      State).slots.look i = some { r with blocking := false } := Table.look_put_same _ _ _
  rcases hs with hs | hs
  · rw [abortSlot_waiting h hs]
    exact joins _ _ _ blocked rfl rfl rfl
  · rw [abortSlot_cut h hs]
    exact joins _ _ _ own cqs rfl rfl

/-- An abort leaves every ring but the one its slot targets. -/
theorem abortSlot_cqs_ne {d : AbortDetail} {i : Fin 16} {r : SlotRec} {s : State} {c : Fin 8}
    (h : s.slots.look i = some r) (ne : c ≠ r.targetCq) :
    (abortSlot d i s).1.cqs.look c = s.cqs.look c := by
  obtain ⟨slots, cqs⟩ := cutGranted_rings i r s
  have own : (cutGranted i r s).slots.look i = some { r with sum := 0 } := by
    rw [slots, Table.look_put_same]
  have blocked : ({ s.setSlot i (some { r with blocking := false }) with examDue := true } :
      State).slots.look i = some { r with blocking := false } := Table.look_put_same _ _ _
  cases hs : r.state with
  | fetching => rw [abortSlot_fetching h hs]; split <;> rfl
  | waiting => rw [abortSlot_waiting h hs, postSlot_cqs_ne blocked ne]; rfl
  | settling => rw [abortSlot_cut h (.inl hs), postSlot_cqs_ne own ne, cqs]
  | converting => rw [abortSlot_cut h (.inr hs), postSlot_cqs_ne own ne, cqs]
  | correcting => rw [abortSlot_late h (.inl hs)]
  | posting => rw [abortSlot_late h (.inr hs)]
  | fenced => rw [abortSlot_fenced h hs]; split <;> rfl

/-! ### What an abort leaves its slot -/

/-- Slot `i` holds record `x` in POSTING and stands in its list, or has been freed without a record. -/
def postedOr (i : Fin 16) (x : SlotRec) (s t : State) : Prop :=
  (s.receives x → postedAs i x s t)
    ∧ (¬ s.receives x → t.slots.look i = none ∧ listings i t = listings i s)

/-- What an abort leaves slot `i`, which held `r`, before the other steps of its event. -/
structure AbortMade (d : AbortDetail) (i : Fin 16) (r : SlotRec) (s t : State) : Prop where
  fetching : r.state = .fetching →
    t.slots.look i = some { r with pendingAbort := some (r.pendingAbort.getD d) }
  waiting : r.state = .waiting → t.examDue = true ∧ ∃ res, abortedWith d s r res
    ∧ postedOr i { r with state := .posting, blocking := false, result := some res } s t
  cut : r.state = .settling ∨ r.state = .converting → (∀ g, r.grant = some g → cutOff i r g s t)
    ∧ ∃ res, abortedWith d s r res
      ∧ postedOr i { r with state := .posting, sum := 0, result := some res } s t
  late : r.state = .correcting ∨ r.state = .posting → t.slots.look i = some r
  fenced : r.state = .fenced → ∃ res, (∀ q position a, r.origin = .sq q position a →
      abortedWith d s r res)
    ∧ t.slots.look i = some { r with result := some (r.result.getD res) }
    ∧ listings i t = listings i s

theorem cutOff_iff {i : Fin 16} {r : SlotRec} {g : Grant} {s t : State} : cutOff i r g s t ↔
    converterCut g.conv (s.convs.look g.conv) t ∧ (∀ x, g.source = some x → sourceFree x t)
      ∧ (∀ x, x ∈ r.terms.map Prod.fst → (t.termClaims.look x).without i) ∧ t.examDue = true := by
  have terms : (∀ ns term kind, r.needSet = some ns → (term, kind) ∈ ns.terms →
      (t.termClaims.look term).without i) ↔
        ∀ x, x ∈ r.terms.map Prod.fst → (t.termClaims.look x).without i := by
    unfold SlotRec.terms
    cases r.needSet with
    | none => simp
    | some ns =>
      constructor
      · intro h x hx
        obtain ⟨⟨term, kind⟩, ht, rfl⟩ := List.mem_map.1 hx
        exact h ns term kind rfl ht
      · intro h m term kind hm ht
        cases hm
        exact h term (List.mem_map.2 ⟨_, ht, rfl⟩)
  rw [← terms]
  unfold cutOff converterCut sourceFree TermClaim.without
  simp only [and_assoc]

theorem receives_congr {s t : State} (h : cqsGrow [] s t) (r : SlotRec) :
    t.receives r ↔ s.receives r := by
  obtain ⟨same, -⟩ := h r.targetCq (by simp)
  unfold State.receives
  rw [same]

/-- A slot that is posted stands in its list, or has been freed. -/
theorem postSlot_postedOr {s : State} {i : Fin 16} {r : SlotRec} (h : s.slots.look i = some r)
    (res : Result) :
    postedOr i { r with state := .posting, result := some res } s (postSlot i res s) := by
  refine ⟨fun ⟨active, named⟩ => ?_, fun idle => ?_⟩
  · rw [postSlot_active h active named]
    exact ⟨by simp, by simp, by simp⟩
  · rw [postSlot_freed h idle]
    exact ⟨by simp [freeSlot_slots], freeSlot_listings i i _⟩

theorem postedOr.from {s u t : State} {i : Fin 16} {x : SlotRec} (grown : cqsGrow [] s u)
    (list : listings i u = listings i s) (h : postedOr i x u t) : postedOr i x s t := by
  obtain ⟨posted, gone⟩ := h
  rw [receives_congr grown] at posted gone
  refine ⟨fun rec => ?_, fun idle => ?_⟩
  · obtain ⟨slot, member, list⟩ := posted rec
    exact ⟨slot, member, (grown x.targetCq (by simp)).2.1.trans list⟩
  · obtain ⟨free, same⟩ := gone idle
    exact ⟨free, same.trans list⟩

theorem postedOr.to {s u t : State} {i : Fin 16} {x : SlotRec} (h : postedOr i x s u)
    (grown : cqsGrow [] u t) (slot : t.slots.look i = u.slots.look i)
    (list : listings i t = listings i u) : postedOr i x s t := by
  obtain ⟨posted, gone⟩ := h
  refine ⟨fun rec => ?_, fun idle => ?_⟩
  · obtain ⟨held, member, before⟩ := posted rec
    have more := (grown x.targetCq (by simp)).2.1
    exact ⟨slot.trans held, more.subset member, before.trans more⟩
  · obtain ⟨free, same⟩ := gone idle
    exact ⟨slot.trans free, list.trans same⟩

/-- The ABORTED result of a slot depends on the templates and their places alone. -/
theorem abortedWith_abortedResult {d : AbortDetail} {s v : State} (ht : v.templates = s.templates)
    (hk : ∀ k, (v.scans.look k).first = (s.scans.look k).first) (r : SlotRec) :
    abortedWith d s r (abortedResult d (carriedLimit v r)) := by
  refine ⟨carriedLimit v r, rfl, fun q position a ho => ?_, fun k index pass x ho hx => ?_⟩
  · simp [carriedLimit, ho]
  · simp [carriedLimit, ho, templateOf, ht, hk, hx]

theorem AbortKeeps.first {s t : State} (h : AbortKeeps s t) (k : Fin 8) :
    (t.scans.look k).first = (s.scans.look k).first := by
  obtain ⟨n, hn⟩ := h.scans k
  rw [hn]

/-- An abort that comes after aborts of other slots leaves its slot what it leaves it at once. -/
theorem abortSlot_made (d : AbortDetail) {i : Fin 16} {r : SlotRec} {s v : State}
    (keeps : AbortKeeps s v) (list : listings i v = listings i s) (h : v.slots.look i = some r) :
    AbortMade d i r s (abortSlot d i v).1 where
  fetching := fun hs => by
    rw [abortSlot_fetching h hs]
    obtain ⟨pending, hp⟩ : ∃ a, a = r.pendingAbort := ⟨_, rfl⟩
    cases pending with
    | none => simp [← hp]
    | some e =>
      rw [if_neg (by simp [← hp]), h, ← hp, Option.getD_some, hp]
  waiting := fun hs => by
    rw [abortSlot_waiting h hs]
    refine ⟨by simp, _, abortedWith_abortedResult keeps.templates keeps.first r, ?_⟩
    have slot : ({ v.setSlot i (some { r with blocking := false }) with examDue := true } :
        State).slots.look i = some { r with blocking := false } := Table.look_put_same _ _ _
    exact (postSlot_postedOr slot _).from (cqsGrow_trans keeps.cqs (cqsGrow_of_eq rfl)) list
  cut := fun hs => by
    rw [abortSlot_cut h hs]
    obtain ⟨slots, cqs⟩ := cutGranted_rings i r v
    have posted := postSlot_keeps i (abortedResult d (carriedLimit v r)) (cutGranted i r v)
    refine ⟨fun g hg => ?_, _, abortedWith_abortedResult keeps.templates keeps.first r, ?_⟩
    · rw [cutGranted_some hg] at posted ⊢
      refine cutOff_iff.2 ⟨?_, fun x hx => ?_, fun x hx => ?_, ?_⟩
      · rcases keeps.convs g.conv with same | cut
        · exact posted.cut _ _ (same ▸ cutFrontEnd_converter i g r.terms _)
        · exact posted.cut _ _ ((cutFrontEnd_keeps i g r.terms _).cut _ _ cut)
      · exact posted.off _ (cutFrontEnd_source i g r.terms _ hx)
      · exact posted.released _ _ (cutFrontEnd_released i g r.terms _ hx)
      · exact posted.exam rfl
    · refine (postSlot_postedOr (by rw [slots, Table.look_put_same]) _).from
        (cqsGrow_trans keeps.cqs (cqsGrow_of_eq cqs)) ?_
      rw [← list]
      funext c
      simp [listings, cqs]
  late := fun hs => by rw [abortSlot_late h hs]; exact h
  fenced := fun hs => by
    rw [abortSlot_fenced h hs]
    refine ⟨abortedResult d .unknown, fun q position a ho => ?_, ?_⟩
    · have := abortedWith_abortedResult (d := d) keeps.templates keeps.first r
      rwa [carriedLimit, ho] at this
    · obtain ⟨result, hr⟩ : ∃ a, a = r.result := ⟨_, rfl⟩
      cases result with
      | none => rw [if_pos (by simp [← hr]), ← hr]; exact ⟨Table.look_put_same _ _ _, list⟩
      | some e => rw [if_neg (by simp [← hr]), h, ← hr, Option.getD_some, hr]; exact ⟨rfl, list⟩

/-- What an abort leaves its slot stands through the aborts of other slots. -/
theorem AbortMade.to {d : AbortDetail} {i : Fin 16} {r : SlotRec} {s u t : State}
    (made : AbortMade d i r s u) (keeps : AbortKeeps u t) (slot : t.slots.look i = u.slots.look i)
    (list : listings i t = listings i u) : AbortMade d i r s t where
  fetching := fun hs => slot.trans (made.fetching hs)
  waiting := fun hs => by
    obtain ⟨exam, res, aborted, posted⟩ := made.waiting hs
    exact ⟨keeps.exam exam, res, aborted, posted.to keeps.cqs slot list⟩
  cut := fun hs => by
    obtain ⟨cut, res, aborted, posted⟩ := made.cut hs
    refine ⟨fun g hg => ?_, res, aborted, posted.to keeps.cqs slot list⟩
    obtain ⟨conv, source, terms, exam⟩ := cutOff_iff.1 (cut g hg)
    exact cutOff_iff.2 ⟨keeps.cut _ _ conv, fun x hx => keeps.off x (source x hx),
      fun x hx => keeps.released i x (terms x hx), keeps.exam exam⟩
  late := fun hs => slot.trans (made.late hs)
  fenced := fun hs => by
    obtain ⟨res, aborted, held, same⟩ := made.fenced hs
    exact ⟨res, aborted, slot.trans held, list.trans same⟩

/-! ### Aborts in age order (R39) -/

/-- One step of an abort in age order: slot `i` is reached if it meets `p`. -/
def abortMeeting (d : AbortDetail) (p : SlotRec → Bool) (s : State) (i : Fin 16) : State :=
  if s.slotMeets p i then (abortSlot d i s).1 else s

section aborts

variable (d : AbortDetail) (p : SlotRec → Bool)

theorem abortSlots_eq (s : State) : (abortSlots d p s).1 = s.age.foldl (abortMeeting d p) s := by
  have : ∀ (l : List (Fin 16)) (v : State) (n : Nat), (l.foldl
      (fun acc i =>
        if acc.1.slotMeets p i then
          let r := abortSlot d i acc.1
          (r.1, if r.2 then acc.2 + 1 else acc.2)
        else acc) (v, n)).1 = l.foldl (abortMeeting d p) v := by
    intro l
    induction l with
    | nil => exact fun _ _ => rfl
    | cons a l ih =>
      intro v n
      rw [List.foldl_cons, List.foldl_cons, abortMeeting]
      split <;> exact ih _ _
  exact this s.age s 0

theorem abortMeeting_keeps (i : Fin 16) (s : State) : AbortKeeps s (abortMeeting d p s i) := by
  unfold abortMeeting
  split
  · exact abortSlot_keeps d i s
  · exact .refl s

theorem abortMeeting_other {i j : Fin 16} (ne : j ≠ i) (s : State) :
    (abortMeeting d p s i).slots.look j = s.slots.look j
      ∧ listings j (abortMeeting d p s i) = listings j s := by
  unfold abortMeeting
  split
  · exact abortSlot_other d ne s
  · exact ⟨rfl, rfl⟩

theorem aborts_keeps (l : List (Fin 16)) (s : State) :
    AbortKeeps s (l.foldl (abortMeeting d p) s) := by
  induction l generalizing s with
  | nil => exact .refl s
  | cons a l ih => exact (abortMeeting_keeps d p a s).trans (ih _)

theorem aborts_other {j : Fin 16} {l : List (Fin 16)} (hj : j ∉ l) (s : State) :
    (l.foldl (abortMeeting d p) s).slots.look j = s.slots.look j
      ∧ listings j (l.foldl (abortMeeting d p) s) = listings j s := by
  induction l generalizing s with
  | nil => exact ⟨rfl, rfl⟩
  | cons a l ih =>
    obtain ⟨ne, hj⟩ := not_or.1 (List.mem_cons.not.1 hj)
    obtain ⟨slot, list⟩ := abortMeeting_other d p ne s
    obtain ⟨slots, lists⟩ := ih hj (abortMeeting d p s a)
    exact ⟨slots.trans slot, lists.trans list⟩

/-- A slot that is not reached stands, whatever the list. -/
theorem aborts_unmet {j : Fin 16} (l : List (Fin 16)) {s : State} (h : s.slotMeets p j = false) :
    (l.foldl (abortMeeting d p) s).slots.look j = s.slots.look j := by
  induction l generalizing s with
  | nil => rfl
  | cons a l ih =>
    have same : (abortMeeting d p s a).slots.look j = s.slots.look j := by
      by_cases e : j = a
      · rw [← e, abortMeeting, h]
        rfl
      · exact (abortMeeting_other d p e s).1
    exact (ih (by unfold State.slotMeets; rw [same]; exact h)).trans same

/-- Aborts in an order that names each slot once leave each slot they reach what one abort leaves it. -/
theorem aborts_made {i : Fin 16} {r : SlotRec} {s : State} (h : s.slots.look i = some r)
    (met : p r = true) {l : List (Fin 16)} (nodup : l.Nodup) (hi : i ∈ l) {v : State}
    (keeps : AbortKeeps s v) (slots : ∀ j, j ∈ l → v.slots.look j = s.slots.look j)
    (lists : ∀ j, j ∈ l → listings j v = listings j s) :
    AbortMade d i r s (l.foldl (abortMeeting d p) v) := by
  induction l generalizing v with
  | nil => cases hi
  | cons a l ih =>
    obtain ⟨ha, nodup⟩ := List.nodup_cons.1 nodup
    by_cases e : i = a
    · subst e
      have hv : v.slots.look i = some r := (slots i (by simp)).trans h
      have one : abortMeeting d p v i = (abortSlot d i v).1 := by
        rw [abortMeeting, slotMeets_some hv, met, if_pos rfl]
      have made := abortSlot_made d keeps (lists i (by simp)) hv
      rw [← one] at made
      obtain ⟨slot, list⟩ := aborts_other d p ha (abortMeeting d p v i)
      exact made.to (aborts_keeps d p l _) slot list
    · refine ih nodup ((List.mem_cons.1 hi).resolve_left e)
        (keeps.trans (abortMeeting_keeps d p a v)) (fun j hj => ?_) (fun j hj => ?_)
      · exact (abortMeeting_other d p (ne_of_mem_of_not_mem hj ha) v).1.trans (slots j (by simp [hj]))
      · exact (abortMeeting_other d p (ne_of_mem_of_not_mem hj ha) v).2.trans (lists j (by simp [hj]))

/-- What no abort of a reached slot changes stands through them all. -/
theorem aborts_view {β : Type} (f : State → β) {s : State} (one : ∀ i r v, s.slots.look i = some r →
      p r = true → v.slots.look i = some r → f (abortSlot d i v).1 = f v)
    {l : List (Fin 16)} (nodup : l.Nodup) {v : State}
    (slots : ∀ j, j ∈ l → v.slots.look j = s.slots.look j) :
    f (l.foldl (abortMeeting d p) v) = f v := by
  induction l generalizing v with
  | nil => rfl
  | cons a l ih =>
    obtain ⟨ha, nodup⟩ := List.nodup_cons.1 nodup
    have step : f (abortMeeting d p v a) = f v := by
      unfold abortMeeting
      split
      · rename_i met
        have same := slots a (by simp)
        cases h : v.slots.look a with
        | none => rw [slotMeets_none h] at met; cases met
        | some r =>
          rw [slotMeets_some h] at met
          exact one a r v (same.symm.trans h) met h
      · rfl
    refine (ih nodup fun j hj => ?_).trans step
    exact (abortMeeting_other d p (ne_of_mem_of_not_mem hj ha) v).1.trans (slots j (by simp [hj]))

/-- The count of aborted slots is that of the reached slots that an abort counts. -/
theorem aborts_count {s : State} {l : List (Fin 16)} (nodup : l.Nodup) {v : State} (n : Nat)
    (slots : ∀ j, j ∈ l → v.slots.look j = s.slots.look j) :
    (l.foldl
      (fun acc i =>
        if acc.1.slotMeets p i then
          let r := abortSlot d i acc.1
          (r.1, if r.2 then acc.2 + 1 else acc.2)
        else acc) (v, n)).2 = n + l.countP (s.slotMeets fun r => p r && r.abortCounts) := by
  induction l generalizing v n with
  | nil => rfl
  | cons a l ih =>
    obtain ⟨ha, nodup⟩ := List.nodup_cons.1 nodup
    have same := slots a (by simp)
    have others : ∀ j, j ∈ l → (abortMeeting d p v a).slots.look j = s.slots.look j := fun j hj =>
      (abortMeeting_other d p (ne_of_mem_of_not_mem hj ha) v).1.trans (slots j (by simp [hj]))
    rw [List.foldl_cons, List.countP_cons]
    cases hr : v.slots.look a with
    | none =>
      have hs : s.slots.look a = none := same.symm.trans hr
      rw [abortMeeting, slotMeets_none hr] at others
      rw [slotMeets_none hr, slotMeets_none hs]
      exact ih nodup n others
    | some r =>
      have hs : s.slots.look a = some r := same.symm.trans hr
      rw [abortMeeting, slotMeets_some hr] at others
      rw [slotMeets_some hr, slotMeets_some hs]
      cases met : p r with
      | false =>
        rw [met] at others
        exact ih nodup n others
      | true =>
        rw [met] at others
        refine (ih nodup _ others).trans ?_
        rw [abortSlot_counts hr]
        cases r.abortCounts <;> simp
        omega

end aborts

/-! ### The slots that an abort reaches, in a state with lawful age order -/

section abortSlots

variable {d : AbortDetail} {p : SlotRec → Bool} {s : State}

theorem abortSlots_keeps : AbortKeeps s (abortSlots d p s).1 := by
  rw [abortSlots_eq]
  exact aborts_keeps d p s.age s

theorem abortSlots_unmet {i : Fin 16} (h : s.slotMeets p i = false) :
    (abortSlots d p s).1.slots.look i = s.slots.look i := by
  rw [abortSlots_eq]
  exact aborts_unmet d p s.age h

theorem abortSlots_made (law : AgeLaw s) {i : Fin 16} {r : SlotRec} (h : s.slots.look i = some r)
    (met : p r = true) : AbortMade d i r s (abortSlots d p s).1 := by
  rw [abortSlots_eq]
  exact aborts_made d p h met law.1 ((law.2 i).2 (by simp [h])) (.refl s) (fun _ _ => rfl) fun _ _ => rfl

theorem abortSlots_view {β : Type} (f : State → β) (law : AgeLaw s) (one : ∀ i r v,
      s.slots.look i = some r → p r = true → v.slots.look i = some r → f (abortSlot d i v).1 = f v) :
    f (abortSlots d p s).1 = f s := by
  rw [abortSlots_eq]
  exact aborts_view d p f one law.1 fun _ _ => rfl

/-- A converter that serves no reached slot in SETTLING or CONVERTING stands. -/
theorem abortSlots_convStands (law : AgeLaw s) {c : Conv}
    (other : ∀ i r g, s.slots.look i = some r → p r = true →
      r.state = .settling ∨ r.state = .converting → r.grant = some g → g.conv ≠ c) :
    convStands c s (abortSlots d p s).1 := by
  have same := abortSlots_view (d := d) (p := p)
    (fun v => (v.convs.look c, v.convClaims.look c, v.conns.look c)) law fun i r v hr met hv => by
      obtain ⟨convs, claims, conns⟩ := abortSlot_convStands d (c := c) (i := i) (s := v)
        fun x g hx hs hg => other i r g hr met (by
          obtain rfl : r = x := Option.some.inj (hv.symm.trans hx)
          exact hs) (by
          obtain rfl : r = x := Option.some.inj (hv.symm.trans hx)
          exact hg)
      rw [convs, claims, conns]
  simp only [Prod.mk.injEq] at same
  exact same

/-- A ring that no reached slot targets stands. -/
theorem abortSlots_cqs (law : AgeLaw s) {c : Fin 8}
    (other : ∀ i r, s.slots.look i = some r → p r = true → r.targetCq ≠ c) :
    (abortSlots d p s).1.cqs.look c = s.cqs.look c :=
  abortSlots_view (fun v => v.cqs.look c) law fun i r _ hr met hv =>
    abortSlot_cqs_ne hv (Ne.symm (other i r hr met))

/-- Counting the occupied slots along age order counts each once. -/
theorem age_countP (law : AgeLaw s) (f : SlotRec → Bool) :
    s.age.countP (s.slotMeets f) = s.countSlots f := by
  have occupied : ∀ i, s.slotMeets f i = true → i ∈ s.age := fun i hi => by
    refine (law.2 i).2 ?_
    cases h : s.slots.look i with
    | none => simp [slotMeets_none h] at hi
    | some r => rfl
  rw [State.countSlots, List.countP_eq_length_filter, List.countP_eq_length_filter]
  refine ((List.perm_ext_iff_of_nodup (law.1.filter _) (allSlots_nodup.filter _)).2 fun i => ?_).length_eq
  simp only [List.mem_filter, mem_allSlots, true_and]
  exact ⟨And.right, fun h => ⟨occupied i h, h⟩⟩

theorem abortSlots_count (law : AgeLaw s) :
    (abortSlots d p s).2 = s.countSlots fun r => p r && r.abortCounts := by
  have := aborts_count d p law.1 (s := s) (v := s) 0 fun _ _ => rfl
  rw [Nat.zero_add, age_countP law] at this
  exact this

/-- Where every slot to be reached is in CORRECTING or POSTING, aborts do nothing. -/
theorem abortSlots_late (late : ∀ i r, s.slots.look i = some r → p r = true →
    r.state = .correcting ∨ r.state = .posting) : abortSlots d p s = (s, 0) := by
  unfold abortSlots
  generalize s.age = l
  induction l with
  | nil => rfl
  | cons a l ih =>
    rw [List.foldl_cons]
    dsimp only
    split
    · rename_i met
      cases h : s.slots.look a with
      | none => rw [slotMeets_none h] at met; cases met
      | some r =>
        rw [slotMeets_some h] at met
        rw [abortSlot_late h (late a r h met)]
        exact ih
    · exact ih

/-- Where one slot is to be reached, aborts are its own. -/
theorem abortSlots_single (law : AgeLaw s) {i : Fin 16} {r : SlotRec} (h : s.slots.look i = some r)
    (met : p r = true) (others : ∀ j x, j ≠ i → s.slots.look j = some x → p x = false) :
    abortSlots d p s = ((abortSlot d i s).1, if r.abortCounts then 1 else 0) := by
  have count : (s.countSlots fun r => p r && r.abortCounts) = if r.abortCounts then 1 else 0 := by
    have own : ∀ j, j ≠ i → s.slotMeets (fun r => p r && r.abortCounts) j = false := fun j ne => by
      cases hx : s.slots.look j with
      | none => exact slotMeets_none hx _
      | some x => rw [slotMeets_some hx, others j x ne hx]; rfl
    have := countP_changed (g := fun _ => false) allSlots_nodup (mem_allSlots i) own
    rw [slotMeets_some h, met] at this
    simpa [State.countSlots, Bool.toNat, Bool.cond_eq_ite] using this
  have one : (abortSlots d p s).1 = (abortSlot d i s).1 := by
    have unmet : ∀ (l : List (Fin 16)) (v : State), i ∉ l →
        (∀ j, j ≠ i → v.slots.look j = s.slots.look j) → l.foldl (abortMeeting d p) v = v := by
      intro l v hi same
      induction l with
      | nil => rfl
      | cons a l ih =>
        obtain ⟨ne, hi⟩ := not_or.1 (List.mem_cons.not.1 hi)
        have stays : abortMeeting d p v a = v := by
          refine if_neg fun met => ?_
          cases hx : v.slots.look a with
          | none => rw [slotMeets_none hx] at met; cases met
          | some x =>
            rw [slotMeets_some hx, others a x (Ne.symm ne) ((same a (Ne.symm ne)).symm.trans hx)] at met
            cases met
        rw [List.foldl_cons, stays]
        exact ih hi
    obtain ⟨front, back, age⟩ := List.append_of_mem ((law.2 i).2 (by simp [h]))
    have nodup := law.1
    rw [age] at nodup
    obtain ⟨-, hb, apart⟩ := List.nodup_append.1 nodup
    have hf : i ∉ front := fun hi => apart i hi i (by simp) rfl
    rw [abortSlots_eq, age, List.foldl_append, List.foldl_cons, unmet front s hf fun _ _ => rfl,
      abortMeeting, slotMeets_some h, met, if_pos rfl]
    exact unmet back _ (List.nodup_cons.1 hb).1 fun j ne => (abortSlot_other d ne s).1
  rw [← count, ← abortSlots_count (d := d) law, ← one]

/-- Aborts that reach only slots of SQs leave every scan as it stands. -/
theorem abortSlots_scans (sq : ∀ r, p r = true → ∃ q index a, r.origin = .sq q index a) :
    (abortSlots d p s).1.scans = s.scans := by
  rw [abortSlots_eq]
  refine foldl_view State.scans _ (fun v i => ?_) s.age s
  unfold abortMeeting
  split
  · rename_i met
    cases h : v.slots.look i with
    | none => simp [abortSlot, h]
    | some r =>
      rw [slotMeets_some h] at met
      obtain ⟨q, index, a, origin⟩ := sq r met
      exact abortSlot_scans_sq h origin
  · rfl

end abortSlots

end Sys2Proof.Machine
end

section
/-! SUPPORT. What the other steps of its event make of an aborted slot, in READY and in HALTING, while no
discard step falls due (R36, R38, R40). -/

namespace Sys2Proof.Machine

-- Parallel elaboration of the one text reserves more memory than the check allows.
set_option Elab.async false

/-! ### The steps of an event without the discard step -/

/-- The state after the steps of an event in which no discard step falls due. -/
def State.carriedOn (u : State) : State := writeStage (adminFetchStage (fills 16 u.beforeFills))

section carriedOn

variable {u : State}

theorem carriedOn_aside (u : State) : u.carriedOn.aside = u.aside := by
  simp [State.carriedOn, State.beforeFills]

theorem carriedOn_slots (u : State) : u.carriedOn.slots = (fills 16 u.beforeFills).slots := by
  simp [State.carriedOn]

theorem carriedOn_examDue (h : u.examDue = true) : u.carriedOn.examDue = true := by
  simp only [State.carriedOn, writeStage_examDue, adminFetchStage_examDue]
  exact fills_examDue 16 (by simpa [State.beforeFills] using h)

/-- A slot that is occupied once the fences have opened stands. -/
theorem carriedOn_look {i : Fin 16} {x : SlotRec} (h : (fenceStage u).slots.look i = some x) :
    u.carriedOn.slots.look i = some x := by
  rw [carriedOn_slots]
  exact fills_occupied 16 (by rw [beforeFills_slots]; exact h)

theorem fenceStage_stand (u : State) : slotsStand [] u (fenceStage u) :=
  slotsStand_foldl (fun s i => fenceRelease_stand i s) _ _

theorem fenceStage_grow (u : State) : cqsGrow [] u (fenceStage u) :=
  cqsGrow_foldl (fun s i => fenceRelease_grow i s) _ _

theorem carriedOn_slotsStand (u : State) : slotsStand [] u u.carriedOn := fun i r hi hr hf =>
  carriedOn_look (fenceStage_stand u i r hi hr hf)

theorem carriedOn_after_fences (u : State) : cqsGrow [] (fenceStage u) u.carriedOn := by
  have pass : cqsGrow [] (fenceStage u) (passStage (fenceStage u)) :=
    cqsGrow_foldl (fun s k => passComplete_grow k s) _ _
  have delete := deleteSqStage_grow (passStage (fenceStage u))
  refine cqsGrow_trans pass (cqsGrow_trans delete (cqsGrow_trans (cqsGrow_of_eq ?_)
    (cqsGrow_foldl (fun s c => beginWrite_grow c s) _ _)))
  simp [State.beforeFills]

theorem carriedOn_cqsGrow (u : State) : cqsGrow [] u u.carriedOn :=
  cqsGrow_trans (fenceStage_grow u) (carriedOn_after_fences u)

/-- No list takes a slot once the fences have opened. -/
theorem carriedOn_listings (i : Fin 16) (u : State) :
    listings i u.carriedOn = listings i (fenceStage u) := by
  have pass : listings i (passStage (fenceStage u)) = listings i (fenceStage u) :=
    foldl_view (listings i) _ (fun s k => passComplete_listings i k s) _ _
  have write : ∀ s, listings i (writeStage s) = listings i s := fun s =>
    foldl_view (listings i) _ (fun s c => beginWrite_listings i c s) _ _
  have same : ∀ {s t : State}, t.cqs = s.cqs → listings i t = listings i s := fun e => by
    funext c; simp [listings, e]
  rw [State.carriedOn, write, same (adminFetchStage_cqs _), same (t := fills 16 _) (fills_cqs 16 _),
    State.beforeFills, same (expiryStage_cqs _), deleteSqStage_listings, pass]

/-- What a slot that was FREE once the fences had opened holds then was admitted anew. -/
theorem carriedOn_new {j : Fin 16} {x : SlotRec} (h : (fenceStage u).slots.look j = none)
    (hx : u.carriedOn.slots.look j = some x) : admittedAnew u.carriedOn x := by
  have free : u.beforeFills.slots.look j = none := by rw [beforeFills_slots]; exact h
  rw [carriedOn_slots] at hx
  have := fills_new 16 free hx
  simpa [State.carriedOn, admittedAnew] using this

theorem carriedOn_freed {s : State} {i : Fin 16} (h : (fenceStage u).slots.look i = none)
    (list : listings i (fenceStage u) = listings i s) : freed i s u.carriedOn :=
  ⟨fun _ hx => carriedOn_new h hx,
    fun c => (congrFun ((carriedOn_listings i u).trans list) c).le⟩

/-- A slot of an SQ stands while an earlier slot of that SQ is left at the end. -/
theorem carriedOn_held {i j : Fin 16} {r x : SlotRec} {q : Fin 8} {index : Nat} {a : Admission}
    (hi : u.slots.look i = some r) (ho : r.origin = .sq q index (some a))
    (hj : u.carriedOn.slots.look j = some x) (he : x.earlierThan q a.seq = true) :
    u.carriedOn.slots.look i = some r := by
  have left : (fenceStage u).slots.look j = some x := by
    cases e : (fenceStage u).slots.look j with
    | none => exact absurd ((admittedAnew_not_earlier (carriedOn_new e hj) q a.seq).symm.trans he) nofun
    | some y => rw [← hj]; exact (carriedOn_look e).symm
  exact carriedOn_look (fenceStage_held hi ho left he)

end carriedOn

/-! ### A FENCED MARK that holds its result, through the fences (R36) -/

theorem fenceRelease_listings_ne {i j : Fin 16} (h : j ≠ i) (s : State) :
    listings i (fenceRelease j s) = listings i s := by
  rcases fenceRelease_eq j s with e | ⟨res, e⟩ <;> rw [e]
  exact postSlot_listings i h res s

/-- A FENCED MARK `y` stands FENCED, or has been posted with the result it holds, or freed. -/
def fenceLeft (i : Fin 16) (y : SlotRec) (u v : State) : Prop :=
  (v.slots.look i = some y ∧ listings i v = listings i u)
    ∨ (u.receives y ∧ postedAs i { y with state := .posting } u v)
    ∨ ¬ u.receives y ∧ v.slots.look i = none ∧ listings i v = listings i u

theorem fenceRelease_left {i j : Fin 16} {y : SlotRec} {res : Result} {u v : State}
    (hy : y.result = some res) (grown : cqsGrow [] u v) (left : fenceLeft i y u v) :
    fenceLeft i y u (fenceRelease j v) := by
  have grow := fenceRelease_grow j v
  by_cases e : j = i
  · subst e
    rcases left with ⟨held, list⟩ | ⟨rec, posted⟩ | ⟨idle, free, list⟩
    · have opens : fenceRelease j v = v ∨ fenceRelease j v = postSlot j res v := by
        unfold fenceRelease
        rw [held]
        split
        · refine .inr (?_ : postSlot j (y.result.getD markResult) v = postSlot j res v)
          rw [hy, Option.getD_some]
        · exact .inl rfl
      rcases opens with same | opened
      · exact same.symm ▸ .inl ⟨held, list⟩
      · have same : ({ y with state := .posting, result := some res } : SlotRec)
            = { y with state := .posting } := by rw [← hy]
        have ends := (postSlot_postedOr held res).from grown list
        rw [opened]
        rw [same] at ends
        by_cases rec : u.receives y
        · exact .inr (.inl ⟨rec, ends.1 rec⟩)
        · exact .inr (.inr ⟨rec, ends.2 rec⟩)
    · obtain ⟨slot, -⟩ := id posted
      rw [fenceRelease_shut (fenceOpen_of_not_fenced slot nofun)]
      exact .inr (.inl ⟨rec, posted⟩)
    · rw [fenceRelease_none free]
      exact .inr (.inr ⟨idle, free, list⟩)
  · have slot := fenceRelease_slots_ne (Ne.symm e) v
    have same := fenceRelease_listings_ne e v
    rcases left with ⟨held, list⟩ | ⟨rec, held, member, before⟩ | ⟨idle, free, list⟩
    · exact .inl ⟨slot.trans held, same.trans list⟩
    · have more := (grow y.targetCq (by simp)).2.1
      exact .inr (.inl ⟨rec, slot.trans held, more.subset member, before.trans more⟩)
    · exact .inr (.inr ⟨idle, slot.trans free, same.trans list⟩)

theorem fenceStage_left {i : Fin 16} {y : SlotRec} {res : Result} {u : State}
    (h : u.slots.look i = some y) (hy : y.result = some res) : fenceLeft i y u (fenceStage u) := by
  have : ∀ (l : List (Fin 16)) (v : State), cqsGrow [] u v → fenceLeft i y u v →
      fenceLeft i y u (l.foldl (fun s j => fenceRelease j s) v) := by
    intro l
    induction l with
    | nil => exact fun _ _ left => left
    | cons a l ih =>
      exact fun v grown left =>
        ih _ (cqsGrow_trans grown (fenceRelease_grow a v)) (fenceRelease_left hy grown left)
  exact this u.age u (cqsGrow_refl _ _) (.inl ⟨h, rfl⟩)

/-! ### An aborted slot at the end of its event -/

/-- A slot that an abort has posted or freed is so at the end of the event. -/
theorem postedOr_ends {i : Fin 16} {x : SlotRec} {s u : State} (h : postedOr i x s u)
    (hx : x.state = .posting) :
    (s.receives x → postedAs i x s u.carriedOn) ∧ (¬ s.receives x → freed i s u.carriedOn) := by
  refine ⟨fun rec => ?_, fun idle => ?_⟩
  · obtain ⟨slot, member, list⟩ := h.1 rec
    have more := (carriedOn_cqsGrow u x.targetCq (by simp)).2.1
    exact ⟨carriedOn_slotsStand u i x (by simp) slot (by rw [hx]; nofun), more.subset member,
      list.trans more⟩
  · obtain ⟨free, list⟩ := h.2 idle
    exact carriedOn_freed (fenceStage_free i u free) ((fenceStage_listings free).trans list)

theorem cutOff_ends {i : Fin 16} {r : SlotRec} {g : Grant} {s u : State} (h : cutOff i r g s u) :
    cutOff i r g s u.carriedOn := by
  have aside := carriedOn_aside u
  rw [cutOff_iff] at h ⊢
  obtain ⟨conv, source, terms, exam⟩ := h
  refine ⟨?_, fun x hx => ?_, fun x hx => ?_, carriedOn_examDue exam⟩
  · unfold converterCut at *
    rwa [aside_convs aside, aside_convClaims aside, aside_conns aside]
  · have := source x hx
    unfold sourceFree at *
    rwa [aside_sourceClaims aside, aside_sources aside]
  · rw [aside_termClaims aside]
    exact terms x hx

/-- A FENCED MARK that took the abort, at the end of the event (R36, R40). -/
theorem fenced_ends {i : Fin 16} {y : SlotRec} {res : Result} {s u : State}
    (grown : cqsGrow [] s u) (slot : u.slots.look i = some y) (hy : y.result = some res)
    (list : listings i u = listings i s) :
    u.carriedOn.slots.look i = some y
      ∨ s.receives y ∧ postedAs i { y with state := .posting } s u.carriedOn
      ∨ ¬ s.receives y ∧ freed i s u.carriedOn := by
  rcases fenceStage_left slot hy with ⟨held, -⟩ | ⟨rec, held, member, before⟩ | ⟨idle, free, same⟩
  · exact .inl (carriedOn_look held)
  · have more := (carriedOn_after_fences u y.targetCq (by simp)).2.1
    exact .inr (.inl ⟨(receives_congr grown y).1 rec, carriedOn_look held, more.subset member,
      ((grown y.targetCq (by simp)).2.1.trans before).trans more⟩)
  · exact .inr (.inr ⟨fun rec => idle ((receives_congr grown y).2 rec),
      carriedOn_freed free (same.trans list)⟩)

/-- What an abort makes of a slot by its state stands at the end of its event. -/
theorem AbortMade.ends {d : AbortDetail} {i : Fin 16} {r : SlotRec} {s u : State}
    (made : AbortMade d i r s u) (grown : cqsGrow [] s u) : abortOutcome d i r s u.carriedOn := by
  refine ⟨fun hs => ?_, fun hs => ?_, fun hs => ?_, fun hs => ?_, fun q position a ho hs => ?_⟩
  · exact carriedOn_slotsStand u i _ (by simp) (made.fetching hs) (by rw [hs]; nofun)
  · obtain ⟨exam, res, aborted, posted⟩ := made.waiting hs
    obtain ⟨listed, gone⟩ := postedOr_ends posted rfl
    exact ⟨carriedOn_examDue exam, fun rec => ⟨res, aborted, listed rec⟩, gone⟩
  · obtain ⟨cut, res, aborted, posted⟩ := made.cut hs
    obtain ⟨listed, gone⟩ := postedOr_ends posted rfl
    exact ⟨fun g hg => cutOff_ends (cut g hg), fun rec => ⟨res, aborted, listed rec⟩, gone⟩
  · refine carriedOn_slotsStand u i r (by simp) (made.late hs) ?_
    rcases hs with hs | hs <;> rw [hs] <;> nofun
  · obtain ⟨res, aborted, slot, list⟩ := made.fenced hs
    refine ⟨res, aborted q position a ho, fun y hy => ?_⟩
    rw [← hy] at slot
    refine ⟨?_, fun n j x ha hx earlier => ?_⟩
    · have := fenced_ends grown slot (res := r.result.getD res) (by rw [hy]) list
      rw [hy] at this ⊢
      exact this
    · exact carriedOn_held slot (by rw [hy]; exact ha ▸ ho) hx earlier

/-- An abort's outcome says the same from any state with the same rings, converters and templates. -/
theorem abortOutcome_congr {d : AbortDetail} {i : Fin 16} {r : SlotRec} {s v t : State}
    (hc : v.cqs = s.cqs) (hv : v.convs = s.convs) (ht : v.templates = s.templates)
    (hk : ∀ k, (v.scans.look k).first = (s.scans.look k).first) (h : abortOutcome d i r v t) :
    abortOutcome d i r s t := by
  simp only [abortOutcome, State.receives, abortedWith, postedAs, freed, cutOff, hc, hv, ht, hk] at h ⊢
  exact h

end Sys2Proof.Machine
end

section
/-! Entry to HALTING (section 11.4): the HALT abort, and the end of its event with the discard step or
without it. -/

namespace Sys2Proof.Machine

-- Parallel elaboration of the one text reserves more memory than the check allows.
set_option Elab.async false

/-! ### The steps of HALTING -/

theorem frontEnd_converters {s t : State} (h : t.frontEnd = s.frontEnd) :
    t.convs = s.convs ∧ t.convClaims = s.convClaims ∧ t.conns = s.conns :=
  ⟨congrArg (·.2.2.2.2.2) h, congrArg (·.2.2.1) h, congrArg (·.2.2.2.1) h⟩

theorem drained_device (s : State) : s.drained.device = .off := rfl

/-- The discard leaves the front end, the store, the templates and the rest of the control. -/
theorem drained_stands (s : State) : s.drained.frontEnd = s.frontEnd ∧ s.drained.store = s.store
    ∧ s.drained.templates = s.templates ∧ s.drained.faultCode = s.faultCode
    ∧ s.drained.enable = s.enable ∧ s.drained.intEnable = s.intEnable := by
  have aside := drained_aside s
  exact ⟨(aside_frontEnd aside).trans rfl, (aside_store aside).trans rfl,
    (aside_templates aside).trans rfl, (aside_faultCode aside).trans rfl,
    (aside_enable aside).trans rfl, (aside_intEnable aside).trans rfl⟩

/-- In HALTING the event goes on without the discard step, or it ends in it: every slot left is in POSTING
then. -/
theorem settle_halting {u : State} (h : u.device = .halting) (off : u.enable = false) :
    settle u = u.carriedOn ∨ settle u = u.beforeFills.drained
      ∧ ∀ i r, u.beforeFills.slots.look i = some r → r.state = .posting := by
  have aside : u.beforeFills.aside = u.aside := by simp [State.beforeFills]
  have halting : u.beforeFills.device = .halting := (aside_device aside).trans h
  have steps : settle u = writeStage (adminFetchStage (fillStage (startUpStage (checkStage
      (discardStage u.beforeFills))))) := rfl
  by_cases due : discardDue u.beforeFills = true
  · have disabled : u.beforeFills.enable = false := (aside_enable aside).trans off
    have drains : discardStage u.beforeFills = u.beforeFills.drained := by
      rw [discardStage, if_pos due, discardAll_eq, disabled]
      rfl
    rw [steps, drains]
    obtain ⟨-, lists, -⟩ := drained_keeps u.beforeFills
    generalize hv : u.beforeFills.drained = v at lists ⊢
    have device : v.device = .off := by rw [← hv]; rfl
    refine .inr ⟨?_, fun i r hr => ?_⟩
    · rw [checkStage_idle (by rw [device]; nofun), startUpStage_idle (by rw [device]; nofun), fillStage,
        fills_off (by rw [device]; nofun), adminFetch_off (by rw [device]; nofun),
        empty_writes fun c => by rw [lists c]; rfl]
    · simp only [discardDue, Bool.and_eq_true, Bool.not_eq_true'] at due
      have := anySlot_false.1 due.2 i r hr
      simpa [SlotRec.holdsHalt] using this
  · refine .inl ?_
    rw [steps, discardStage, if_neg due, checkStage_idle (by rw [halting]; nofun),
      startUpStage_idle (by rw [halting]; nofun)]
    rfl

theorem beforeFills_aside (u : State) : u.beforeFills.aside = u.aside := by simp [State.beforeFills]

/-- With the discard step or without it, front end, store and the rest of the control stand. -/
theorem settle_halting_stands {u : State} (h : u.device = .halting) (off : u.enable = false) :
    (settle u).frontEnd = u.frontEnd ∧ (settle u).store = u.store
      ∧ (settle u).templates = u.templates ∧ (settle u).faultCode = u.faultCode
      ∧ (settle u).enable = u.enable ∧ (settle u).intEnable = u.intEnable
      ∧ ((settle u).device = .halting ∨ (settle u).device = .off) := by
  rcases settle_halting h off with e | ⟨e, -⟩
  · have aside := carriedOn_aside u
    rw [e]
    exact ⟨aside_frontEnd aside, aside_store aside, aside_templates aside, aside_faultCode aside,
      aside_enable aside, aside_intEnable aside, .inl ((aside_device aside).trans h)⟩
  · have before := beforeFills_aside u
    rw [e]
    generalize u.beforeFills = b at before
    obtain ⟨front, store, templates, fault, enable, intEnable⟩ := drained_stands b
    exact ⟨front.trans (aside_frontEnd before), store.trans (aside_store before),
      templates.trans (aside_templates before), fault.trans (aside_faultCode before),
      enable.trans (aside_enable before), intEnable.trans (aside_intEnable before),
      .inr (drained_device b)⟩

/-- While a slot is neither in POSTING nor FENCED the discard step does not come. -/
theorem settle_halting_held {u : State} (h : u.device = .halting) {i : Fin 16} {r : SlotRec}
    (hr : u.slots.look i = some r) (hp : r.state ≠ .posting) (hf : r.state ≠ .fenced) :
    settle u = u.carriedOn := settle_of_work (.inr ⟨h, i, r, hr, hp, hf⟩)

/-- A slot after the fences holds the record it held, or one in POSTING. -/
theorem fenceStage_back {i : Fin 16} {r : SlotRec} {u : State}
    (h : (fenceStage u).slots.look i = some r) : u.slots.look i = some r ∨ r.state = .posting := by
  have one : ∀ (j : Fin 16) (v : State), (fenceRelease j v).slots.look i = some r →
      v.slots.look i = some r ∨ r.state = .posting := by
    intro j v hr
    by_cases e : i = j
    · subst e
      rcases fenceRelease_eq i v with same | ⟨res, posts⟩
      · exact .inl (same ▸ hr)
      · rw [posts] at hr
        rcases postSlot_slots_same i res v with free | ⟨y, -, held⟩
        · rw [free] at hr; cases hr
        · rw [held] at hr; cases hr; exact .inr rfl
    · exact .inl ((fenceRelease_slots_ne e v).symm.trans hr)
  have all : ∀ (l : List (Fin 16)) (v : State),
      (l.foldl (fun s j => fenceRelease j s) v).slots.look i = some r →
        v.slots.look i = some r ∨ r.state = .posting := by
    intro l
    induction l with
    | nil => exact fun _ hr => .inl hr
    | cons a l ih =>
      intro v hr
      rcases ih _ hr with held | posting
      · exact one a v held
      · exact .inr posting
  exact all u.age u h

/-! ### A scan whose run is dropped (R154) -/

/-- The countdown is stopped and no template is pending. -/
def Scan.dropped (n : Nat) (k : Scan) : Prop := k.counting = false ∧ k.nextTemplate = n

theorem beforeFills_dropped {u : State} (h : u.device = .halting) {n : Nat} {k : Fin 8}
    (d : (u.scans.look k).dropped n) : (u.beforeFills.scans.look k).dropped n := by
  rw [beforeFills_stepped, h]
  have stopped : ((u.scans.look k).passEnded .halting).dropped n := by
    unfold Scan.passEnded
    split
    · exact ⟨rfl, d.2⟩
    · exact d
  rwa [Scan.expiredNow, if_neg fun e => nomatch e.1]

theorem carriedOn_dropped {u : State} (h : u.device = .halting) {n : Nat} {k : Fin 8}
    (d : (u.scans.look k).dropped n) : (u.carriedOn.scans.look k).dropped n := by
  have device : u.beforeFills.device = .halting :=
    (aside_device (t := u) (by simp [State.beforeFills])).trans h
  have same : u.carriedOn.scans = u.beforeFills.scans := by
    rw [State.carriedOn, fills_off (by rw [device]; nofun)]
    simp
  rw [same]
  exact beforeFills_dropped h d

theorem drained_dropped {s : State} {n : Nat} {k : Fin 8} (d : (s.scans.look k).dropped n) :
    (s.drained.scans.look k).dropped n := by
  obtain ⟨m, hm⟩ : ∃ m, s.freedAll.scans.look k = { s.scans.look k with outstanding := m } := by
    rw [freedAll_eq]
    exact freeSlots_scan allSlots s k
  unfold State.drained State.ringsDown
  dsimp only
  rw [Table.look_build, hm]
  split
  · exact ⟨rfl, d.2⟩
  · exact d

/-! ### The HALT abort (R39, R198) -/

theorem haltReaches_iff (r : SlotRec) : r.haltReaches = true ↔
    r.state = .fetching ∨ r.state = .waiting ∨ r.state = .settling ∨ r.state = .fenced := by
  unfold SlotRec.haltReaches
  cases r.state <;> simp

/-- The state in which the HALT abort is taken. -/
def State.haltBegun (s : State) (ie : Bool) : State :=
  { s with
    enable := false, intEnable := ie, device := .halting
    scans := Table.build fun k => (s.scans.look k).halted }

theorem writeControl_halts {s : State} (ready : s.device = .ready) (enabled : s.enable = true) (ie : Bool) :
    writeControl false ie s = (abortSlots .halt SlotRec.haltReaches (s.haltBegun ie)).1 := by
  simp only [writeControl, ready, enabled]
  rfl

theorem halted_first (k : Scan) : k.halted.first = k.first := by
  unfold Scan.halted
  split <;> rfl

section haltBegun

variable {s u : State} {ie : Bool}
  (hu : u = (abortSlots .halt SlotRec.haltReaches (s.haltBegun ie)).1) (law : AgeLaw s)

include hu

theorem haltBegun_keeps : AbortKeeps (s.haltBegun ie) u := by rw [hu]; exact abortSlots_keeps

theorem haltBegun_device : u.device = .halting :=
  congrArg (fun c => c.2.1) (haltBegun_keeps hu).control

theorem haltBegun_enable : u.enable = false :=
  congrArg (fun c => c.2.2.2.1) (haltBegun_keeps hu).control

theorem haltBegun_stands {i : Fin 16} {r : SlotRec} (h : s.slots.look i = some r)
    (hr : r.haltReaches = false) : u.slots.look i = some r := by
  have : (s.haltBegun ie).slots.look i = some r := h
  rw [hu, abortSlots_unmet ((slotMeets_some this _).trans hr), this]

theorem haltBegun_free {i : Fin 16} (h : s.slots.look i = none) : u.slots.look i = none := by
  have : (s.haltBegun ie).slots.look i = none := h
  rw [hu, abortSlots_unmet (slotMeets_none this _), this]

include law

theorem haltBegun_made {i : Fin 16} {r : SlotRec} (h : s.slots.look i = some r)
    (hr : r.haltReaches = true) : AbortMade .halt i r (s.haltBegun ie) u := by
  rw [hu]
  exact abortSlots_made (s := s.haltBegun ie) law h hr

/-- The HALT abort leaves no slot WAITING or SETTLING. -/
theorem haltBegun_none_waits {i : Fin 16} {r : SlotRec} (h : u.slots.look i = some r) :
    r.state ≠ .waiting ∧ r.state ≠ .settling := by
  cases hs : s.slots.look i with
  | none => rw [haltBegun_free hu hs] at h; cases h
  | some x =>
    have posted : ∀ {y : SlotRec}, postedOr i y (s.haltBegun ie) u → y.state = .posting →
        r.state ≠ .waiting ∧ r.state ≠ .settling := fun {y} post hy => by
      by_cases rec : (s.haltBegun ie).receives y
      · obtain ⟨slot, -⟩ := post.1 rec
        rw [slot] at h
        cases h
        rw [hy]
        exact ⟨nofun, nofun⟩
      · rw [(post.2 rec).1] at h
        cases h
    cases reached : x.haltReaches with
    | false =>
      rw [haltBegun_stands hu hs reached] at h
      cases h
      exact ⟨fun e => by simp [SlotRec.haltReaches, e] at reached,
        fun e => by simp [SlotRec.haltReaches, e] at reached⟩
    | true =>
      have made := haltBegun_made hu law hs reached
      rcases (haltReaches_iff x).1 reached with e | e | e | e
      · rw [made.fetching e] at h; cases h; rw [e]; exact ⟨nofun, nofun⟩
      · obtain ⟨-, res, -, post⟩ := made.waiting e
        exact posted post rfl
      · obtain ⟨-, res, -, post⟩ := made.cut (.inl e)
        exact posted post rfl
      · obtain ⟨res, -, slot, -⟩ := made.fenced e
        rw [slot] at h; cases h; rw [e]; exact ⟨nofun, nofun⟩

end haltBegun

/-- Settles O8. -/
theorem enableOffBeginsHalting : Obligations.EnableOffBeginsHalting := by
  unfold Obligations.EnableOffBeginsHalting
  intro ie s reset ready enabled law
  obtain ⟨u, hu⟩ : ∃ u, u = (abortSlots .halt SlotRec.haltReaches (s.haltBegun ie)).1 := ⟨_, rfl⟩
  have keeps := haltBegun_keeps hu
  have halting := haltBegun_device hu
  have disabled := haltBegun_enable hu
  have ends := settle_halting halting disabled
  obtain ⟨front, store, templates, fault, enable, intEnable, device⟩ := settle_halting_stands halting disabled
  obtain ⟨frontConvs, frontClaims, frontConns⟩ : (settle u).convs = u.convs
      ∧ (settle u).convClaims = u.convClaims ∧ (settle u).conns = u.conns := frontEnd_converters front
  have goesOn : settle u = u.carriedOn → (settle u).device = .halting := fun e => by
    rw [e]
    exact (aside_device (carriedOn_aside u)).trans halting
  have held : ∀ i r, u.slots.look i = some r → r.state ≠ .posting → r.state ≠ .fenced →
      (settle u).device = .halting ∧ (settle u).slots.look i = some r := fun i r hr hp hf => by
    have e := settle_halting_held halting hr hp hf
    refine ⟨goesOn e, ?_⟩
    rw [e]
    exact carriedOn_slotsStand u i r (by simp) hr hf
  have still : (settle u).device = .halting → settle u = u.carriedOn := fun h => by
    rcases ends with e | ⟨e, -⟩
    · exact e
    · rw [e, drained_device] at h
      cases h
  refine ⟨settle u, act_to reset ((writeControl_halts ready enabled ie).trans hu.symm), ?_, ?_, device,
    fun i r hr hs => ?_, fun i r hr hs => ?_, fun h => ⟨?_, fun i r hr hs => ?_⟩, fun i r hr => ?_,
    fun i r g hr hs hg => ?_, fun c other => ?_, fun k running => ?_, ?_, ?_, ?_⟩
  · exact enable.trans disabled
  · exact intEnable.trans (congrArg (fun c => c.2.2.2.2.1) keeps.control)
  · refine held i r (haltBegun_stands hu hr ?_) ?_ ?_ <;> rcases hs with hs | hs <;>
      simp [SlotRec.haltReaches, hs]
  · have made := haltBegun_made hu law hr (by simp [SlotRec.haltReaches, hs])
    exact held i _ (made.fetching hs) (by simp [hs]) (by simp [hs])
  · rw [still h]
    exact cqsGrow_trans keeps.cqs (carriedOn_cqsGrow u)
  · rw [still h]
    cases reached : r.haltReaches with
    | true =>
      refine abortOutcome_congr (v := s.haltBegun ie) rfl rfl rfl (fun k => ?_)
        ((haltBegun_made hu law hr reached).ends keeps.cqs)
      rw [State.haltBegun]
      dsimp only
      rw [Table.look_build, halted_first]
    | false =>
      have slot := haltBegun_stands hu hr reached
      obtain ⟨fetching, waiting, settling, fenced⟩ : r.state ≠ .fetching ∧ r.state ≠ .waiting
          ∧ r.state ≠ .settling ∧ r.state ≠ .fenced := by
        simpa only [not_or, reached, Bool.false_eq_true, false_iff] using haltReaches_iff r
      exact ⟨fun e => absurd e fetching, fun e => absurd e waiting,
        fun e => absurd e (not_or.2 ⟨settling, hs⟩),
        fun _ => carriedOn_slotsStand u i r (by simp) slot fenced, fun _ _ _ _ e => absurd e fenced⟩
  · rcases ends with e | ⟨e, -⟩
    · rw [e, carriedOn_slots, fills_off (by rw [aside_device (beforeFills_aside u), halting]; nofun),
        beforeFills_slots] at hr
      rcases fenceStage_back hr with was | posting
      · exact haltBegun_none_waits hu law was
      · rw [posting]; exact ⟨nofun, nofun⟩
    · rw [e, (drained_keeps _).1 i] at hr
      cases hr
  · obtain ⟨cut, -⟩ := (haltBegun_made hu law hr (by simp [SlotRec.haltReaches, hs])).cut (.inl hs)
    obtain ⟨⟨⟨n, conv⟩, claim, conns⟩, -⟩ := cutOff_iff.1 (cut g hg)
    refine ⟨?_, ?_, ?_⟩
    · rw [frontClaims, claim]
    · rw [frontConvs, conv]
    · rw [frontConns, conns]
  · obtain ⟨convs, claims, conns⟩ : convStands c s u := by
      rw [hu]
      refine abortSlots_convStands (s := s.haltBegun ie) law fun i r g hr met hs hg => ?_
      refine other i r g hr (hs.resolve_right fun e => ?_) hg
      simp [SlotRec.haltReaches, e] at met
    exact ⟨by rw [frontConvs, convs], by rw [frontClaims, claims],
      by rw [frontConns, conns]⟩
  · have dropped : (u.scans.look k).dropped (s.scans.look k).count := by
      obtain ⟨n, hn⟩ := keeps.scans k
      rw [hn, State.haltBegun]
      dsimp only
      rw [Table.look_build, Scan.halted, if_pos running]
      exact ⟨rfl, rfl⟩
    rcases ends with e | ⟨e, -⟩ <;> rw [e]
    · exact carriedOn_dropped halting dropped
    · exact drained_dropped (beforeFills_dropped halting dropped)
  · exact store.trans keeps.store
  · exact templates.trans keeps.templates
  · exact fault.trans (congrArg (fun c => c.2.2.1) keeps.control)

end Sys2Proof.Machine
end

section
/-! ABORT (section 10.6). -/

namespace Sys2Proof.Machine

-- Parallel elaboration of the one text reserves more memory than the check allows.
set_option Elab.async false

theorem abortSelects_iff (q : Fin 8) (all : Bool) (tag : BitVec 16) (r : SlotRec) :
    abortSelects q all tag r = true ↔ ∃ position a, r.origin = .sq q position a
      ∧ (all = true ∨ r.state ≠ .fetching ∧ ∃ x, a = some x ∧ x.tag = tag) := by
  unfold abortSelects
  cases ho : r.origin with
  | scan k index pass => simp
  | sq q' position a =>
    cases a with
    | none => simp
    | some x => simp

/-- The part once ABORT has reached the slots that meet `p` and has ended with their number. -/
def State.abortRun (s : State) (index : Nat) (cid : BitVec 16) (cmd : AdminCmd) (p : SlotRec → Bool) :
    State :=
  complete .success (abortSlots .abortCmd p (commandTaken cid cmd index s)).2 0
    (abortSlots .abortCmd p (commandTaken cid cmd index s)).1

theorem complete_keeps (status : AdminStatus) (aux : Nat) (value : Int) (s : State) :
    AbortKeeps s (complete status aux value s) :=
  .of_aside (complete_aside ..) (complete_sqs ..) (completeWith_grow status aux value .empty 0 s)
    (complete_examDue ..)
    fun _ => ⟨_, by rw [complete_scans]⟩

section abortRun

variable {index : Nat} {s u : State} {cid : BitVec 16} {cmd : AdminCmd} {p : SlotRec → Bool}
  (take : s.mayTake index) (hu : u = s.abortRun index cid cmd p)

include hu

theorem abortRun_keeps : AbortKeeps (commandTaken cid cmd index s) u := by
  rw [hu]
  exact abortSlots_keeps.trans (complete_keeps ..)

theorem abortRun_cqsGrow : cqsGrow [] s u := (abortRun_keeps hu).cqs

theorem abortRun_unmet {i : Fin 16} {r : SlotRec} (h : s.slots.look i = some r) (hp : p r = false) :
    u.slots.look i = some r := by
  have hv : (commandTaken cid cmd index s).slots.look i = some r := h
  rw [hu, State.abortRun, complete_slots, abortSlots_unmet ((slotMeets_some hv _).trans hp), hv]

theorem abortRun_made (law : AgeLaw s) {i : Fin 16} {r : SlotRec} (h : s.slots.look i = some r)
    (hp : p r = true) : AbortMade .abortCmd i r (commandTaken cid cmd index s) u := by
  have made := abortSlots_made (d := .abortCmd) (s := commandTaken cid cmd index s) law h hp
  rw [hu]
  exact made.to (complete_keeps ..) (by rw [State.abortRun, complete_slots])
    (completeWith_listings i ..)

include take

/-- A slot that the abort leaves outside POSTING and FENCED holds the halt back as before. -/
theorem abortRun_work (law : AgeLaw s) (held : s.device = .ready ∨ ∃ i r, s.slots.look i = some r
      ∧ (r.state = .fetching ∨ r.state = .correcting
        ∨ p r = false ∧ r.state ≠ .posting ∧ r.state ≠ .fenced)) :
    u.device = .ready ∨ u.device = .halting ∧ u.heldBack := by
  have device : u.device = s.device := congrArg (fun c => c.2.1) (abortRun_keeps hu).control
  rw [device]
  refine take.1.2.imp_right fun ⟨halting, _⟩ => ⟨halting, ?_⟩
  rcases held with ready | ⟨i, r, hr, hs⟩
  · exact absurd (ready.symm.trans halting) nofun
  · cases met : p r with
    | false =>
      have stands := abortRun_unmet hu hr met
      rcases hs with hs | hs | ⟨-, posting, fenced⟩
      · exact ⟨i, r, stands, by simp [hs], by simp [hs]⟩
      · exact ⟨i, r, stands, by simp [hs], by simp [hs]⟩
      · exact ⟨i, r, stands, posting, fenced⟩
    | true =>
      have made := abortRun_made hu law hr met
      rcases hs with hs | hs | ⟨hs, -⟩
      · exact ⟨i, _, made.fetching hs, by simp [hs], by simp [hs]⟩
      · exact ⟨i, r, made.late (.inl hs), by simp [hs], by simp [hs]⟩
      · rw [met] at hs; cases hs

variable (w : u.device = .ready ∨ u.device = .halting ∧ u.heldBack)

include w

/-- What stands through the event of an ABORT of slots of SQs. -/
theorem abortRun_stands (sq : ∀ r, p r = true → ∃ q position a, r.origin = .sq q position a) :
    headTaken index s (settle u) ∧ (settle u).control = s.control ∧ (settle u).store = s.store
      ∧ (settle u).templates = s.templates ∧ (settle u).intPending = s.intPending
      ∧ sqsStand [0] s (settle u) ∧ cqsGrow [] s (settle u) ∧ scansStand [] s (settle u)
      ∧ ∀ i r, s.slots.look i = some r → p r = false → r.state ≠ .fenced →
          (settle u).slots.look i = some r := by
  have keeps := abortRun_keeps hu
  have aside := settle_aside_work w
  have scans : u.scans = s.scans := by
    rw [hu, State.abortRun, complete_scans, abortSlots_scans sq]
    rfl
  refine ⟨settle_headTaken w take.2.2.2.1 (by rw [keeps.sqs]; exact Table.look_put_same _ _ _),
    (aside_control aside).trans keeps.control, (aside_store aside).trans keeps.store,
    (aside_templates aside).trans keeps.templates, (aside_intPending aside).trans keeps.intPending,
    sqsStand_via (fun q hq => ?_) (settle_sqsStand w),
    cqsGrow_trans (abortRun_cqsGrow hu) (settle_cqsGrow w),
    scansStand_via (fun k _ => by rw [scans]) (settle_scansStand w), fun i r hr hp hf => ?_⟩
  · rw [keeps.sqs]
    exact Table.look_put_ne _ _ _ _ (by simpa using hq)
  · exact settle_slotsStand w i r (by simp) (abortRun_unmet hu hr hp) hf

/-- The end of an ABORT whose slots do not target CQ0. -/
theorem abortRun_answered (law : AgeLaw s)
    (elsewhere : ∀ i r, s.slots.look i = some r → p r = true → r.targetCq ≠ 0) :
    answered (plainDone cid .success (s.countSlots fun r => p r && r.abortCounts) 0) s (settle u) := by
  have count : (abortSlots .abortCmd p (commandTaken cid cmd index s)).2
      = s.countSlots fun r => p r && r.abortCounts :=
    abortSlots_count (s := commandTaken cid cmd index s) law
  rw [State.abortRun, count] at hu
  exact settle_completed_answered w hu (ctx := ⟨index, cid, cmd, .nothing⟩)
    (abortSlots_ax .abortCmd p (s := commandTaken cid cmd index s) rfl)
    (abortSlots_cqs (s := commandTaken cid cmd index s) law elsewhere) take.2.2.2.2

omit take in
/-- What an ABORT makes of each slot that it reaches. -/
theorem abortRun_outcome (law : AgeLaw s) {i : Fin 16} {r : SlotRec} (h : s.slots.look i = some r)
    (hp : p r = true) : abortOutcome .abortCmd i r s (settle u) := by
  rw [settle_filled w]
  exact abortOutcome_congr (v := commandTaken cid cmd index s) rfl rfl rfl (fun _ => rfl)
    ((abortRun_made hu law h hp).ends (abortRun_keeps hu).cqs)

omit take in
theorem abortRun_convStands (law : AgeLaw s) : otherConvertersStand
    (fun r => p r = true ∧ (r.state = .settling ∨ r.state = .converting)) s (settle u) := by
  intro c other
  have aside := settle_aside_work w
  obtain ⟨convs, claims, conns⟩ : convStands c s u := by
    rw [hu, State.abortRun]
    refine convStands.trans ?_ (convStands_of_aside (complete_aside ..) c)
    exact abortSlots_convStands (s := commandTaken cid cmd index s) law
      fun i r g hr met hs hg => other i r g hr ⟨met, hs⟩ hg
  rw [aside_convs aside, aside_convClaims aside, aside_conns aside]
  exact ⟨convs, claims, conns⟩

end abortRun

/-! ### One slot selected -/

/-- The ABORTED result of a slot of an SQ. -/
theorem abortedWith_sq {d : AbortDetail} {s : State} {r : SlotRec} {res : Result} {q : Fin 8}
    {position : Nat} {a : Option Admission} (h : abortedWith d s r res)
    (ho : r.origin = .sq q position a) :
    res = { value := 0, status := .aborted, aux := d.code, generation := 0, flags := RecFlags.clear,
            limitNew := .unknown, limitPrev := .unknown } := by
  obtain ⟨l, rfl, unknown, -⟩ := h
  rw [unknown q position a ho]

section single

variable {index : Nat} {s u : State} {cid : BitVec 16} {cmd : AdminCmd} {p : SlotRec → Bool}
  {i : Fin 16} {r : SlotRec} {q : Fin 8} {position : Nat} {a : Admission}
  (take : s.mayTake index) (ready : s.device = .ready) (law : AgeLaw s)
  (hu : u = s.abortRun index cid cmd p) (h : s.slots.look i = some r)
  (ho : r.origin = .sq q position (some a)) (met : p r = true)
  (others : ∀ j x, j ≠ i → s.slots.look j = some x → p x = false)
  (rec : s.receives r) (elsewhere : r.targetCq ≠ 0)
  (live : r.state = .waiting ∨ r.state = .settling ∨ r.state = .converting)

include take ready law hu h ho met others rec elsewhere live

/-- What an ABORT of one slot that it posts leaves: the slot at the end of its list, the count 1, and
everything else. -/
theorem abortRun_single : (u.device = .ready ∨ u.device = .halting ∧ u.heldBack)
    ∧ (s.cqs.look r.targetCq).list ++ [.slot i] <+: ((settle u).cqs.look r.targetCq).list
    ∧ answered (plainDone cid .success 1 0) s (settle u) ∧ slotsStand [i] s (settle u)
    ∧ scansStand [] s (settle u) := by
  have w := abortRun_work take hu law (.inl ready)
  have single := abortSlots_single (d := .abortCmd) (p := p) (s := commandTaken cid cmd index s) law h
    met others
  have counts : r.abortCounts = true := by
    unfold SlotRec.abortCounts
    rcases live with e | e | e <;> rw [e]
  rw [counts, if_pos rfl] at single
  have only : ∀ j x, s.slots.look j = some x → p x = true → j = i := fun j x hx hp => by
    by_contra ne
    rw [others j x ne hx] at hp
    cases hp
  refine ⟨w, ?_, ?_, fun j x hj hx hf => ?_, ?_⟩
  · refine List.IsPrefix.trans ?_ (settle_cqsGrow w r.targetCq (by simp)).2.1
    rw [hu, State.abortRun, single]
    refine List.IsPrefix.trans ?_ (completeWith_grow .success 1 0 .empty 0 _ r.targetCq (by simp)).2.1
    rw [abortSlot_joins (s := commandTaken cid cmd index s) h rec live]
    exact List.prefix_refl _
  · have ended := abortRun_answered take hu w law fun j x hx hp => by
      have e := only j x hx hp
      subst e
      obtain rfl : x = r := Option.some.inj (hx.symm.trans h)
      exact elsewhere
    have count := abortSlots_count (d := .abortCmd) (p := p) (s := commandTaken cid cmd index s) law
    rw [single] at count
    have same : (s.countSlots fun r => p r && r.abortCounts) = 1 := count.symm
    rwa [same] at ended
  · have ne : j ≠ i := by simpa using hj
    exact settle_slotsStand w j x (by simp) (abortRun_unmet hu hx (others j x ne hx)) hf
  · have scans : u.scans = s.scans := by
      rw [hu, State.abortRun, complete_scans, single]
      exact abortSlot_scans_sq (s := commandTaken cid cmd index s) h ho
    exact scansStand_via (fun k _ => by rw [scans]) (settle_scansStand w)

/-- In WAITING the abort leaves everything aside. -/
theorem abortRun_waiting_aside (hs : r.state = .waiting) : (settle u).aside = s.aside := by
  obtain ⟨w, -⟩ := abortRun_single take ready law hu h ho met others rec elsewhere live
  have single := abortSlots_single (d := .abortCmd) (p := p) (s := commandTaken cid cmd index s) law h
    met others
  rw [settle_aside_work w, hu, State.abortRun, complete_aside, single]
  dsimp only
  rw [abortSlot_waiting (s := commandTaken cid cmd index s) h hs, postSlot_aside]
  rfl

end single

/-! ### The command -/

theorem abortSelects_sq {q : Fin 8} {all : Bool} {tag : BitVec 16} {r : SlotRec}
    (h : abortSelects q all tag r = true) : ∃ q position a, r.origin = .sq q position a := by
  obtain ⟨position, a, ho, -⟩ := (abortSelects_iff q all tag r).1 h
  exact ⟨q, position, a, ho⟩

/-- Where no selected slot can be aborted any more, ABORT does nothing but end. -/
theorem abortRun_late {index : Nat} {s : State} (take : s.mayTake index) {cid : BitVec 16}
    {cmd : AdminCmd} {p : SlotRec → Bool} (late : ∀ i r, s.slots.look i = some r → p r = true →
      r.state = .correcting ∨ r.state = .posting) :
    onlyAnswered index (plainDone cid .success 0 0) s (settle (s.abortRun index cid cmd p)) := by
  rw [State.abortRun, abortSlots_late (s := commandTaken cid cmd index s) late]
  exact completeWith_onlyAnswered take ..

section runAbort

variable {index : Nat} {s : State} (take : s.mayTake index) {id select : Byte} {tag : BitVec 16}
  {q : Fin 8}

include take

theorem exec_abort (cid : BitVec 16) (id select : Byte) (tag : BitVec 16) :
    exec (.abort cid id select tag) s = .next (settle (runAbort id select tag
      (commandTaken cid (.abort id select tag) index s))) :=
  act_takes take cid (.abort id select tag) true

omit take in
/-- An ABORT whose checks pass. -/
theorem runAbort_passes {cid : BitVec 16} {cmd : AdminCmd} (hq : eighth id.toNat = q)
    (h1 : 1 ≤ id.toNat) (h7 : id.toNat ≤ 7) (hsel : select.toNat ≤ 1)
    (exist : (s.sqs.look q).state ≠ .absent) :
    runAbort id select tag (commandTaken cid cmd index s)
      = s.abortRun index cid cmd (abortSelects q (select.toNat == 1) tag) := by
  obtain ⟨inRange, nonzero⟩ := queueId_of h1 h7
  have ring : (commandTaken cid cmd index s).sqs.look q = s.sqs.look q :=
    Table.look_put_ne _ _ _ _ (hq ▸ nonzero)
  simp only [runAbort, hq, ring]
  rw [if_neg inRange, if_neg (by omega), if_neg exist]
  rfl

/-- ABORT by TAG and of ALL, of an SQ that is not NONE. -/
theorem exec_abort_passes (cid : BitVec 16) (hq : id.toNat = q.val) (nonzero : q ≠ 0)
    (exist : (s.sqs.look q).state ≠ .absent) :
    exec (.abort cid id 0 tag) s
      = .next (settle (s.abortRun index cid (.abort id 0 tag) (abortSelects q false tag)))
    ∧ exec (.abort cid id 1 tag) s
      = .next (settle (s.abortRun index cid (.abort id 1 tag) (abortSelects q true tag))) := by
  have h7 : id.toNat ≤ 7 := by omega
  have h1 : 1 ≤ id.toNat := by
    have : q.val ≠ 0 := fun e => nonzero (Fin.ext e)
    omega
  have hq : eighth id.toNat = q := Fin.ext ((eighth_val h7).trans hq)
  exact ⟨(exec_abort take cid id 0 tag).trans (by rw [runAbort_passes hq h1 h7 (by decide) exist]; rfl),
    (exec_abort take cid id 1 tag).trans (by rw [runAbort_passes hq h1 h7 (by decide) exist]; rfl)⟩

end runAbort

/-- Settles O47. -/
theorem abortReachesTheSlot : Obligations.AbortReachesTheSlot := by
  unfold Obligations.AbortReachesTheSlot
  refine ⟨fun cid id q tag index s take ready hq nonzero exist law => ?_, ?_⟩
  · obtain ⟨byTag, all⟩ := exec_abort_passes take (tag := tag) cid hq nonzero exist
    refine ⟨fun none => ⟨_, byTag, abortRun_late take fun i r hr met => ?_⟩, ?_, ?_⟩
    · obtain ⟨position, a, ho, all | ⟨live, x, rfl, tagged⟩⟩ := (abortSelects_iff ..).1 met
      · cases all
      · exact absurd tagged (none i r position x hr ho live)
    · intro i r position a hr ho tagged unique active elsewhere named
      have others : ∀ j x, j ≠ i → s.slots.look j = some x → abortSelects q false tag x = false :=
        fun j x ne hx => by
          rw [← Bool.not_eq_true, abortSelects_iff]
          rintro ⟨p, b, hb, all | ⟨-, y, rfl, hy⟩⟩
          · cases all
          · exact unique j x p y ne hx hb hy
      refine ⟨fun correcting => ⟨_, byTag, abortRun_late take fun j x hx met => ?_⟩,
        fun res hres => ⟨fun waiting => ?_, fun g hg cutting => ?_⟩⟩
      · by_cases e : j = i
        · subst e
          obtain rfl : x = r := Option.some.inj (hx.symm.trans hr)
          exact .inl correcting
        · rw [others j x e hx] at met
          cases met
      · have met : abortSelects q false tag r = true :=
          (abortSelects_iff ..).2 ⟨position, some a, ho, .inr ⟨by simp [waiting], a, rfl, tagged⟩⟩
        obtain ⟨u, hu⟩ : ∃ u, u = s.abortRun index cid (.abort id 0 tag) (abortSelects q false tag) :=
          ⟨_, rfl⟩
        obtain ⟨w, list, ended, slots, scans⟩ := abortRun_single take ready law hu hr ho met others
          ⟨active, named⟩ elsewhere (.inl waiting)
        obtain ⟨head, -, -, -, -, sqs, cqs, -, -⟩ :=
          abortRun_stands take hu w fun _ => abortSelects_sq
        obtain ⟨exam, posted, -⟩ := (abortRun_outcome hu w law hr met).2.1 waiting
        obtain ⟨res', aborted, slot, -⟩ := posted ⟨active, named⟩
        obtain rfl : res' = res := (abortedWith_sq aborted ho).trans hres.symm
        exact ⟨settle u, byTag.trans (by rw [hu]), head,
          abortRun_waiting_aside take ready law hu hr ho met others ⟨active, named⟩ elsewhere
            (.inl waiting) waiting, slot, list, exam, ended, slots, scans, sqs, cqs⟩
      · have met : abortSelects q false tag r = true := (abortSelects_iff ..).2
          ⟨position, some a, ho, .inr ⟨by rcases cutting with e | e <;> simp [e], a, rfl, tagged⟩⟩
        obtain ⟨u, hu⟩ : ∃ u, u = s.abortRun index cid (.abort id 0 tag) (abortSelects q false tag) :=
          ⟨_, rfl⟩
        obtain ⟨w, list, ended, slots, scans⟩ := abortRun_single take ready law hu hr ho met others
          ⟨active, named⟩ elsewhere (.inr cutting)
        obtain ⟨head, control, store, templates, pending, sqs, cqs, -, -⟩ :=
          abortRun_stands take hu w fun _ => abortSelects_sq
        obtain ⟨-, -, outcome, -⟩ := abortRun_outcome hu w law hr met
        obtain ⟨cut, posted, -⟩ := outcome cutting
        obtain ⟨⟨n, conv⟩, claim, conns, source, -, exam⟩ := cut g hg
        obtain ⟨res', aborted, slot, -⟩ := posted ⟨active, named⟩
        obtain rfl : res' = res := (abortedWith_sq aborted ho).trans hres.symm
        exact ⟨settle u, n, byTag.trans (by rw [hu]), head, slot, list, conv, claim, conns, source,
          exam, ended, control, store, templates, pending, slots, scans, sqs, cqs⟩
    · obtain ⟨u, hu⟩ : ∃ u, u = s.abortRun index cid (.abort id 1 tag) (abortSelects q true tag) :=
        ⟨_, rfl⟩
      have w := abortRun_work take hu law (.inl ready)
      obtain ⟨head, control, store, templates, pending, sqs, -, scans, unmet⟩ :=
        abortRun_stands take hu w fun _ => abortSelects_sq
      have selects : ∀ r, abortSelects q true tag r = r.fromSq q := fun r => by
        unfold abortSelects SlotRec.fromSq
        cases r.origin <;> simp
      refine ⟨settle u, all.trans (by rw [hu]), head, control, store, templates, pending, sqs, scans,
        fun i r hr hs fetching => ?_, fun i r hr hs => unmet i r hr ((selects r).trans hs)⟩
      exact (abortRun_outcome hu w law hr ((selects r).trans hs)).1 fetching
  · intro cid id select q tag index s take hq
    have ran := exec_abort take cid id select tag
    obtain ⟨v, hv⟩ : ∃ v, v = commandTaken cid (.abort id select tag) index s := ⟨_, rfl⟩
    rw [← hv] at ran
    have ends : ∀ status aux, runAbort id select tag v = complete status aux 0 v →
        onlyAnswered index (plainDone cid status aux 0) s (settle (runAbort id select tag v)) :=
      fun status aux hr => by rw [hr, hv]; exact completeWith_onlyAnswered take ..
    refine ⟨_, ran, fun bad => ends _ _ (if_pos bad), fun h1 h7 => ⟨fun bad => ends _ _ ?_,
      fun hsel absent => ends _ _ ?_, fun reached hreached hsel exist law held => ?_⟩⟩
    · rw [runAbort]
      exact (if_neg (queueId_of h1 h7).1).trans (if_pos bad)
    · have ring : v.sqs.look q = s.sqs.look q := by
        rw [hv]
        exact Table.look_put_ne _ _ _ _ (hq ▸ (queueId_of h1 h7).2)
      rw [runAbort]
      refine (if_neg (queueId_of h1 h7).1).trans ((if_neg (by omega)).trans (if_pos ?_))
      rw [← hq, ring]
      exact absent
    · have same : reached = abortSelects q (select.toNat == 1) tag := by
        funext r
        rw [Bool.eq_iff_iff, hreached, abortSelects_iff, beq_iff_eq]
      obtain ⟨u, hu⟩ : ∃ u, u = s.abortRun index cid (.abort id select tag) reached := ⟨_, rfl⟩
      have run : runAbort id select tag v = u := by
        rw [hv, runAbort_passes hq.symm h1 h7 hsel exist, hu, same]
      have w := abortRun_work take hu law held
      obtain ⟨head, control, store, templates, pending, sqs, cqs, scans, unmet⟩ :=
        abortRun_stands take hu w fun r met => abortSelects_sq (same ▸ met)
      rw [run]
      exact ⟨head, control, store, templates, pending, sqs, cqs, scans,
        fun i r hr met => abortRun_outcome hu w law hr met, unmet,
        abortRun_convStands hu w law, abortRun_answered take hu w law⟩

end Sys2Proof.Machine
end
